-- ==== Sys2Proof/Word.lean ====
section
/-! DEFINITION. The widths of spec/00_scope.md R6: 8-bit bytes, 16-bit words, 4-bit register numbers. -/

namespace Sys2Proof

/-- One 8-bit byte: a register, a timer, a cell of memory (R30, R39, R46). -/
abbrev Byte := BitVec 8

/-- One 16-bit word: an instruction, the index register, a stack slot, the input bitmask (R33, R34, R42, R90). -/
abbrev Word := BitVec 16

/-- A 12-bit address field of an instruction (R91, field NNN). -/
abbrev Addr12 := BitVec 12

/-- The number of a register, `V0` to `VF` (R30). -/
abbrev Reg := Fin 16

end Sys2Proof
end

