-- ==== Sys2Proof/Config.lean ====
section
/-! DEFINITION. The implementation parameters of spec/00_scope.md R6 as named constants (D2), and the free values:
constants with no body, of which nothing can be proved but their type. -/

namespace Sys2Proof.Config

/-- `MEM_SIZE`: memory bytes, addresses `0..4095` (R6, R46). -/
abbrev memSize : Nat := 4096

/-- `PROG_BASE`: program load address and initial instruction pointer (R6, R77). -/
abbrev progBase : Nat := 0x200

/-- `GLYPH_STRIDE`: bytes of one font glyph (R6, R186). -/
abbrev glyphStride : Nat := 5

/-- The highest value of the stack pointer (R6, R34, R134). -/
abbrev maxSp : Nat := 254

/-- What a byte of memory reads as that neither an image nor a store has written (R60: "every other `M[a]`" is 0). -/
abbrev memFill : Byte := 0

/-- FREE VALUE (log 2): the `inputBitmask` of the `n`-th step call past the end of the host's list of calls (R49, R54). -/
opaque freeKeys : Nat → Word

/-- FREE VALUE (log 2): the `elapsedMillis` of the `n`-th step call past the end of the host's list of calls (R49, R54). -/
opaque freeMillis : Nat → Nat

/-- FREE VALUE (log 3): the `n`-th random byte drawn past the end of the supplied ones (R50, R170, D18). -/
opaque freeRandom : Nat → Byte

end Sys2Proof.Config
end

