-- ==== Sys2Proof/Machine/State.lean ====
section
/-! DEFINITION. The machine's state as plain data: everything spec/10_state.md gives the core (R30 to R49), and the
model's own fields for the inputs the host has still to give (R48 to R51, R54; log 1 to 3). -/

namespace Sys2Proof.Machine

/-- The two causes of a fatal error (R230): names, no numeric codes (D22). -/
inductive FatalError where
  /-- CALL with the stack full (R231). -/
  | stackOverflow
  /-- An access at the address `a`, which is 4096 or more (R232). -/
  | memoryFault (a : Nat)
  deriving DecidableEq, Repr

/-- What the last step answered (R49, R52). -/
inductive StepResult where
  /-- No step has been made since `load` (log 6). -/
  | noStep
  /-- `Ok(halted)` (R116). -/
  | ok (halted : Bool)
  /-- `Err(cause)` (R233, R234). -/
  | err (cause : FatalError)
  deriving DecidableEq, Repr

/-- The names of the compatibility flags (R3, R51). -/
inductive CompatFlag where
  | loadStore
  | shift
  deriving DecidableEq, Repr

/-- The compatibility flags: `compat.LOAD_STORE` and `compat.SHIFT` (R40). -/
structure Compat where
  loadStore : Bool
  shift : Bool
  deriving DecidableEq, Repr

/-- One transaction of the host at a port that changes state (R48, R49, R51, R54). -/
inductive HostCall where
  /-- `step(inputBitmask, elapsedMillis)` (R49). -/
  | step (inputBitmask : Word) (elapsedMillis : Nat)
  /-- `enableCompat(flag)` (R51). -/
  | enableCompat (flag : CompatFlag)
  /-- `load(program, font, fontOffset)` (R48). -/
  | load (program font : List Byte) (fontOffset : Nat)
  deriving DecidableEq, Repr

/-- Memory: the bytes that differ from what unlisted memory reads as, by rising address (R46). -/
abbrev Memory := List Host.Cell

/-- The display buffer: 64 columns of 32 pixels, column first as in `Pix[x][y]` (R47). -/
abbrev Display := Vector (Vector Bool 32) 64

/-- The core. -/
structure State where
  /-- The registers `V0` to `VF` (R30); `V[15]` is the flag register (R32). -/
  V : Vector Byte 16
  /-- The index register (R33). -/
  I : Word
  /-- The call/IP stack, 255 slots (R34). -/
  stack : Vector Word 255
  /-- The stack pointer, 0 to 254 (R34, R35). -/
  sp : Fin 255
  /-- The delay timer (R39). -/
  DT : Byte
  /-- The sound timer (R39). -/
  ST : Byte
  /-- The compatibility flags (R40). -/
  compat : Compat
  /-- Key-wait: the core is paused until a key is held (R41, R254). -/
  waiting : Bool
  /-- Key-wait: the register that takes the key's number (R41). -/
  waitReg : Reg
  /-- The input snapshot of the current step (R42). -/
  keys : Word
  /-- The elapsed-time accumulator, unbounded (R43, D19). -/
  acc : Nat
  /-- The beep flag (R44). -/
  beep : Bool
  /-- The fault status; `none` is the spec's own value (R45). -/
  fault : Option FatalError
  /-- Memory (R46). -/
  mem : Memory
  /-- The display buffer (R47). -/
  pix : Display
  /-- Where `load` put the font (R48, R186). -/
  fontOffset : Nat
  /-- The answer of the last step (R49, R52). -/
  result : StepResult
  /-- The model's own: the host's calls still to come, the next one first (log 1). -/
  calls : List HostCall
  /-- The model's own: the random bytes supplied and not yet drawn, the next one first (log 3). -/
  random : List Byte
  /-- The model's own: how many step calls were made past the end of `calls` (log 2). -/
  freeCalls : Nat
  /-- The model's own: how many random bytes were drawn past the end of `random` (log 3). -/
  freeDraws : Nat
  deriving DecidableEq, Repr

/-- The reasons for which the machine itself could stop with no state after it. There is NONE: the core's two fatal
errors have an entry that the spec describes (R233), so they are next states whose `fault` field holds the cause
(log 5), and no other operation raises an error (R230). Safe and unsafe do not arise. -/
inductive Fault where
  deriving DecidableEq, Repr

/-- The reasons for which the model gives no next state. -/
inductive Refusal where
  /-- Raised by an arm of `exec` whose instruction has no meaning yet. Safe. No arm raises it. -/
  | notModelled (mnemonic : String)
  /-- Raised by the construction port when the images do not fit or overlap: "otherwise `load` has no meaning (a model
  refuses it)" (R261, log 7). Safe. No instruction raises it. -/
  | loadNotAdmitted
  deriving DecidableEq, Repr

/-- The core right after `load` with no images and the default font offset 0 (R60; log 4): every field at the value R60
gives, memory with nothing listed, and no host call or random byte pending. -/
def State.reset : State where
  V := Vector.replicate 16 0
  I := 0
  stack := (Vector.replicate 255 0).set 0 (BitVec.ofNat 16 Config.progBase)
  sp := 0
  DT := 0
  ST := 0
  compat := { loadStore := false, shift := false }
  waiting := false
  waitReg := 0
  keys := 0
  acc := 0
  beep := false
  fault := none
  mem := []
  pix := Vector.replicate 64 (Vector.replicate 32 false)
  fontOffset := 0
  result := .noStep
  calls := []
  random := []
  freeCalls := 0
  freeDraws := 0

end Sys2Proof.Machine
end

