-- ==== Sys2Proof/Machine/Flags.lean ====
section
/-! DEFINITION. The values that the flag register `VF` receives (spec/42_register_alu.md R157 to R161, spec/44_draw.md
R212) and the results computed beside them. Operands are converted to integers, computed exactly and narrowed at the end
(R149). -/

namespace Sys2Proof.Machine

/-- The flag as a byte: 1 or 0. -/
def flagByte (b : Bool) : Byte := if b then 1 else 0

/-- `x + y` modulo 256 (R149, R157). -/
def addResult (x y : Byte) : Byte := BitVec.ofNat 8 (x.toNat + y.toNat)

/-- Carry: the exact sum exceeds 255 (R157). -/
def addCarry (x y : Byte) : Bool := decide (x.toNat + y.toNat > 255)

/-- The exact difference, -255 to 255 (R158, R159). -/
def exactDifference (x y : Byte) : Int := (x.toNat : Int) - (y.toNat : Int)

/-- `x - y` modulo 256 (R149, R158). -/
def subResult (x y : Byte) : Byte := BitVec.ofInt 8 (exactDifference x y)

/-- Borrow: the exact difference is negative (R158, R159). -/
def subBorrow (x y : Byte) : Bool := decide (exactDifference x y < 0)

/-- `src >> 1` (R160). -/
def shrResult (src : Byte) : Byte := src >>> 1

/-- The bit that a right shift drops: bit 0 (R160). -/
def shrOut (src : Byte) : Bool := src.getLsbD 0

/-- `(src << 1) mod 256` (R161). -/
def shlResult (src : Byte) : Byte := src <<< 1

/-- The bit that a left shift drops: bit 7 (R161). -/
def shlOut (src : Byte) : Bool := src.getLsbD 7

end Sys2Proof.Machine
end

