-- ==== Sys2Proof/Syntax.lean ====
section
/-! DEFINITION. The instruction set: one constructor per row of spec/opcode_table.json (30_encoding.md R95), in the
table's order. Every operand has exactly the width of its field (R91). -/

namespace Sys2Proof

/-- The 35 instructions and the catch-all of R95. -/
inductive Instr where
  /-- `0?E0` CLS (R130). -/
  | cls
  /-- `0?EE` RET (R131). -/
  | ret
  /-- `0NNN` SYS addr (R132). -/
  | sys (nnn : Addr12)
  /-- `1NNN` JP addr (R133). -/
  | jp (nnn : Addr12)
  /-- `2NNN` CALL addr (R134). -/
  | call (nnn : Addr12)
  /-- `3XNN` SE Vx, byte (R137). -/
  | seImm (x : Reg) (nn : Byte)
  /-- `4XNN` SNE Vx, byte (R138). -/
  | sneImm (x : Reg) (nn : Byte)
  /-- `5XY0` SE Vx, Vy (R139). -/
  | seReg (x y : Reg)
  /-- `6XNN` LD Vx, byte (R150). -/
  | ldImm (x : Reg) (nn : Byte)
  /-- `7XNN` ADD Vx, byte (R151). -/
  | addImm (x : Reg) (nn : Byte)
  /-- `8XY0` LD Vx, Vy (R153). -/
  | ldReg (x y : Reg)
  /-- `8XY1` OR Vx, Vy (R154). -/
  | orReg (x y : Reg)
  /-- `8XY2` AND Vx, Vy (R155). -/
  | andReg (x y : Reg)
  /-- `8XY3` XOR Vx, Vy (R156). -/
  | xorReg (x y : Reg)
  /-- `8XY4` ADD Vx, Vy (R157). -/
  | addReg (x y : Reg)
  /-- `8XY5` SUB Vx, Vy (R158). -/
  | subReg (x y : Reg)
  /-- `8XY6` SHR Vx, Vy (R160). -/
  | shr (x y : Reg)
  /-- `8XY7` SUBN Vx, Vy (R159). -/
  | subn (x y : Reg)
  /-- `8XYE` SHL Vx, Vy (R161). -/
  | shl (x y : Reg)
  /-- `9XY0` SNE Vx, Vy (R140). -/
  | sneReg (x y : Reg)
  /-- `ANNN` LD I, addr (R180). -/
  | ldI (nnn : Addr12)
  /-- `BNNN` JP V0, addr (R135). -/
  | jpV0 (nnn : Addr12)
  /-- `CXNN` RND Vx, byte (R170). -/
  | rnd (x : Reg) (nn : Byte)
  /-- `DXYN` DRW Vx, Vy, nibble (R212); `n` is the sprite's height, 0 to 15. -/
  | drw (x y : Reg) (n : Fin 16)
  /-- `EX9E` SKP Vx (R142). -/
  | skp (x : Reg)
  /-- `EXA1` SKNP Vx (R143). -/
  | sknp (x : Reg)
  /-- `FX07` LD Vx, DT (R181). -/
  | ldVxDT (x : Reg)
  /-- `FX0A` LD Vx, K (R182). -/
  | ldVxK (x : Reg)
  /-- `FX15` LD DT, Vx (R183). -/
  | ldDTVx (x : Reg)
  /-- `FX18` LD ST, Vx (R184). -/
  | ldSTVx (x : Reg)
  /-- `FX1E` ADD I, Vx (R185). -/
  | addI (x : Reg)
  /-- `FX29` LD F, Vx (R186). -/
  | ldF (x : Reg)
  /-- `FX33` LD B, Vx (R187). -/
  | ldB (x : Reg)
  /-- `FX55` LD [I], Vx (R188). -/
  | storeRegs (x : Reg)
  /-- `FX65` LD Vx, [I] (R189). -/
  | loadRegs (x : Reg)
  /-- Any word that no other row selects (R96, R115); the word is kept so that it can be encoded again. -/
  | unrecognized (w : Word)
  deriving DecidableEq, Repr

end Sys2Proof
end

