-- ==== Sys2Proof/WellFormed.lean ====
section
/-! DEFINITION. Which terms of `Instr` stand for an instruction word: the operand types already hold every field to its
width, so two checks remain, on the two rows of 30_encoding.md R95 that other rows take words from. -/

namespace Sys2Proof

/-- The unrecognized words, as 30_encoding.md R96 lists them. -/
def unrecognizedWord (w : Word) : Bool :=
  let f := w.extractLsb 15 12
  let n := w.extractLsb 3 0
  let nn := w.extractLsb 7 0
  ((f == 0x5#4 || f == 0x9#4) && n != 0x0#4)
    || (f == 0x8#4 && [0x8#4, 0x9#4, 0xA#4, 0xB#4, 0xC#4, 0xD#4, 0xF#4].contains n)
    || (f == 0xE#4 && !([0x9E#8, 0xA1#8].contains nn))
    || (f == 0xF#4
        && !([0x07#8, 0x0A#8, 0x15#8, 0x18#8, 0x1E#8, 0x29#8, 0x33#8, 0x55#8, 0x65#8].contains nn))

/-- The low byte of SYS's address names neither CLS nor RET (R132: "with `w[7:0]` not `0xE0`, `0xEE`"). -/
def sysAddress (nnn : Addr12) : Bool :=
  nnn.extractLsb 7 0 != 0xE0#8 && nnn.extractLsb 7 0 != 0xEE#8

/-- The term stands for a word that the decoder gives it (R95, R96). -/
def Instr.wellFormed : Instr → Bool
  | .sys nnn => sysAddress nnn
  | .unrecognized w => unrecognizedWord w
  | .cls | .ret | .jp _ | .call _ | .seImm _ _ | .sneImm _ _ | .seReg _ _ | .ldImm _ _ | .addImm _ _
  | .ldReg _ _ | .orReg _ _ | .andReg _ _ | .xorReg _ _ | .addReg _ _ | .subReg _ _ | .shr _ _ | .subn _ _
  | .shl _ _ | .sneReg _ _ | .ldI _ | .jpV0 _ | .rnd _ _ | .drw _ _ _ | .skp _ | .sknp _ | .ldVxDT _ | .ldVxK _
  | .ldDTVx _ | .ldSTVx _ | .addI _ | .ldF _ | .ldB _ | .storeRegs _ | .loadRegs _ => true

end Sys2Proof
end

