-- ==== Sys2Proof/Decode.lean ====
section
/-! DEFINITION. The decoder and, after it, the encoder (spec/30_encoding.md R90 to R97). The decoder is the two-level
dispatch of R94; the encoder lays the fields out by the formats of R92 with the fixed digits of R95; the table of R95
itself stands at the end, so that both can be held to it. -/

namespace Sys2Proof

/-! ## The fields of an instruction word (R91) -/

/-- The family `w[15:12]`. -/
def fieldF (w : Word) : BitVec 4 := w.extractLsb 15 12

/-- The first register `w[11:8]`. -/
def fieldX (w : Word) : Reg := (w.extractLsb 11 8).toFin

/-- The second register `w[7:4]`. -/
def fieldY (w : Word) : Reg := (w.extractLsb 7 4).toFin

/-- The low nibble `w[3:0]`. -/
def fieldN (w : Word) : Fin 16 := (w.extractLsb 3 0).toFin

/-- The low byte `w[7:0]`. -/
def fieldNN (w : Word) : Byte := w.extractLsb 7 0

/-- The 12-bit address `w[11:0]`. -/
def fieldNNN (w : Word) : Addr12 := w.extractLsb 11 0

/-! ## The decoder (R94, R114) -/

/-- Family 0 by the low byte; bits 11:8 are not examined (R94, D4). -/
def decodeFamily0 (w : Word) : Instr :=
  match (fieldNN w).toNat with
  | 0xE0 => .cls
  | 0xEE => .ret
  | _ => .sys (fieldNNN w)

/-- Family 8 by the low nibble (R152, R162). -/
def decodeFamily8 (w : Word) : Instr :=
  match (fieldN w).val with
  | 0x0 => .ldReg (fieldX w) (fieldY w)
  | 0x1 => .orReg (fieldX w) (fieldY w)
  | 0x2 => .andReg (fieldX w) (fieldY w)
  | 0x3 => .xorReg (fieldX w) (fieldY w)
  | 0x4 => .addReg (fieldX w) (fieldY w)
  | 0x5 => .subReg (fieldX w) (fieldY w)
  | 0x6 => .shr (fieldX w) (fieldY w)
  | 0x7 => .subn (fieldX w) (fieldY w)
  | 0xE => .shl (fieldX w) (fieldY w)
  | _ => .unrecognized w

/-- Family E by the low byte (R190). -/
def decodeFamilyE (w : Word) : Instr :=
  match (fieldNN w).toNat with
  | 0x9E => .skp (fieldX w)
  | 0xA1 => .sknp (fieldX w)
  | _ => .unrecognized w

/-- Family F by the low byte (R190). -/
def decodeFamilyF (w : Word) : Instr :=
  match (fieldNN w).toNat with
  | 0x07 => .ldVxDT (fieldX w)
  | 0x0A => .ldVxK (fieldX w)
  | 0x15 => .ldDTVx (fieldX w)
  | 0x18 => .ldSTVx (fieldX w)
  | 0x1E => .addI (fieldX w)
  | 0x29 => .ldF (fieldX w)
  | 0x33 => .ldB (fieldX w)
  | 0x55 => .storeRegs (fieldX w)
  | 0x65 => .loadRegs (fieldX w)
  | _ => .unrecognized w

/-- Dispatch on the top 4 bits (R94); every word has a meaning, so this is total. -/
def decodeWord (w : Word) : Instr :=
  match (fieldF w).toNat with
  | 0x0 => decodeFamily0 w
  | 0x1 => .jp (fieldNNN w)
  | 0x2 => .call (fieldNNN w)
  | 0x3 => .seImm (fieldX w) (fieldNN w)
  | 0x4 => .sneImm (fieldX w) (fieldNN w)
  | 0x5 => if fieldN w = 0 then .seReg (fieldX w) (fieldY w) else .unrecognized w
  | 0x6 => .ldImm (fieldX w) (fieldNN w)
  | 0x7 => .addImm (fieldX w) (fieldNN w)
  | 0x8 => decodeFamily8 w
  | 0x9 => if fieldN w = 0 then .sneReg (fieldX w) (fieldY w) else .unrecognized w
  | 0xA => .ldI (fieldNNN w)
  | 0xB => .jpV0 (fieldNNN w)
  | 0xC => .rnd (fieldX w) (fieldNN w)
  | 0xD => .drw (fieldX w) (fieldY w) (fieldN w)
  | 0xE => decodeFamilyE w
  | _ => decodeFamilyF w

/-- Why bytes are no instruction: there is only one reason, since every word decodes (R96). -/
inductive DecodeError where
  /-- Fewer than the two bytes of an instruction word (R90). -/
  | truncated
  deriving DecidableEq, Repr

/-- A word from its two bytes, the byte at the lower address first (R72). -/
def wordOfBytes (hi lo : Byte) : Word := hi ++ lo

/-- The two bytes of a word, the byte at the lower address first (R72). -/
def bytesOfWord (w : Word) : List Byte := [w.extractLsb 15 8, w.extractLsb 7 0]

/-- Decode the first instruction of a list of bytes and give the rest of the list. -/
def decode : List Byte → Except DecodeError (Instr × List Byte)
  | hi :: lo :: rest => .ok (decodeWord (wordOfBytes hi lo), rest)
  | _ => .error .truncated

/-! ## The encoder (formats of R92, fixed digits of R95) -/

/-- Formats `RR` and `RRN`: `F X Y N`. -/
def formatRRN (f : BitVec 4) (x y : Reg) (n : Fin 16) : Word :=
  f ++ (BitVec.ofFin x : BitVec 4) ++ (BitVec.ofFin y : BitVec 4) ++ (BitVec.ofFin n : BitVec 4)

/-- Formats `RI` and `R`: `F X NN`. -/
def formatRI (f : BitVec 4) (x : Reg) (nn : Byte) : Word :=
  f ++ (BitVec.ofFin x : BitVec 4) ++ nn

/-- Format `A12`: `F NNN`. -/
def formatA12 (f : BitVec 4) (nnn : Addr12) : Word := f ++ nnn

/-- The word of an instruction. CLS and RET, whose bits 11:8 are ignored, get the digit 0 there (R94). -/
def encodeWord : Instr → Word
  | .cls => 0x00E0
  | .ret => 0x00EE
  | .sys nnn => formatA12 0x0 nnn
  | .jp nnn => formatA12 0x1 nnn
  | .call nnn => formatA12 0x2 nnn
  | .seImm x nn => formatRI 0x3 x nn
  | .sneImm x nn => formatRI 0x4 x nn
  | .seReg x y => formatRRN 0x5 x y 0x0
  | .ldImm x nn => formatRI 0x6 x nn
  | .addImm x nn => formatRI 0x7 x nn
  | .ldReg x y => formatRRN 0x8 x y 0x0
  | .orReg x y => formatRRN 0x8 x y 0x1
  | .andReg x y => formatRRN 0x8 x y 0x2
  | .xorReg x y => formatRRN 0x8 x y 0x3
  | .addReg x y => formatRRN 0x8 x y 0x4
  | .subReg x y => formatRRN 0x8 x y 0x5
  | .shr x y => formatRRN 0x8 x y 0x6
  | .subn x y => formatRRN 0x8 x y 0x7
  | .shl x y => formatRRN 0x8 x y 0xE
  | .sneReg x y => formatRRN 0x9 x y 0x0
  | .ldI nnn => formatA12 0xA nnn
  | .jpV0 nnn => formatA12 0xB nnn
  | .rnd x nn => formatRI 0xC x nn
  | .drw x y n => formatRRN 0xD x y n
  | .skp x => formatRI 0xE x 0x9E
  | .sknp x => formatRI 0xE x 0xA1
  | .ldVxDT x => formatRI 0xF x 0x07
  | .ldVxK x => formatRI 0xF x 0x0A
  | .ldDTVx x => formatRI 0xF x 0x15
  | .ldSTVx x => formatRI 0xF x 0x18
  | .addI x => formatRI 0xF x 0x1E
  | .ldF x => formatRI 0xF x 0x29
  | .ldB x => formatRI 0xF x 0x33
  | .storeRegs x => formatRI 0xF x 0x55
  | .loadRegs x => formatRI 0xF x 0x65
  | .unrecognized w => w

/-- The bytes of an instruction as memory holds them (R72, R90). -/
def encode (i : Instr) : List Byte := bytesOfWord (encodeWord i)

/-- The instruction the decoder reads from a word of spec/opcode_table.json: its low `nbits` bits, every bit above them 0,
laid out big-endian as memory holds it (R72). -/
def decodeTableWord (nbits w : Nat) : Option Instr :=
  (decode (bytesOfWord (BitVec.ofNat 16 (w % 2 ^ nbits)))).toOption.map Prod.fst

/-! ## The opcode map (R95) -/

/-- One row of the map of R95: an instruction word `w` selects it when `w & mask = pattern`. -/
structure OpRow where
  pattern : Word
  mask : Word
  deriving DecidableEq, Repr

/-- The row that R95 gives an instruction. -/
def Instr.opRow : Instr → OpRow
  | .cls => ⟨0x00E0, 0xF0FF⟩
  | .ret => ⟨0x00EE, 0xF0FF⟩
  | .sys _ => ⟨0x0000, 0xF000⟩
  | .jp _ => ⟨0x1000, 0xF000⟩
  | .call _ => ⟨0x2000, 0xF000⟩
  | .seImm _ _ => ⟨0x3000, 0xF000⟩
  | .sneImm _ _ => ⟨0x4000, 0xF000⟩
  | .seReg _ _ => ⟨0x5000, 0xF00F⟩
  | .ldImm _ _ => ⟨0x6000, 0xF000⟩
  | .addImm _ _ => ⟨0x7000, 0xF000⟩
  | .ldReg _ _ => ⟨0x8000, 0xF00F⟩
  | .orReg _ _ => ⟨0x8001, 0xF00F⟩
  | .andReg _ _ => ⟨0x8002, 0xF00F⟩
  | .xorReg _ _ => ⟨0x8003, 0xF00F⟩
  | .addReg _ _ => ⟨0x8004, 0xF00F⟩
  | .subReg _ _ => ⟨0x8005, 0xF00F⟩
  | .shr _ _ => ⟨0x8006, 0xF00F⟩
  | .subn _ _ => ⟨0x8007, 0xF00F⟩
  | .shl _ _ => ⟨0x800E, 0xF00F⟩
  | .sneReg _ _ => ⟨0x9000, 0xF00F⟩
  | .ldI _ => ⟨0xA000, 0xF000⟩
  | .jpV0 _ => ⟨0xB000, 0xF000⟩
  | .rnd _ _ => ⟨0xC000, 0xF000⟩
  | .drw _ _ _ => ⟨0xD000, 0xF000⟩
  | .skp _ => ⟨0xE09E, 0xF0FF⟩
  | .sknp _ => ⟨0xE0A1, 0xF0FF⟩
  | .ldVxDT _ => ⟨0xF007, 0xF0FF⟩
  | .ldVxK _ => ⟨0xF00A, 0xF0FF⟩
  | .ldDTVx _ => ⟨0xF015, 0xF0FF⟩
  | .ldSTVx _ => ⟨0xF018, 0xF0FF⟩
  | .addI _ => ⟨0xF01E, 0xF0FF⟩
  | .ldF _ => ⟨0xF029, 0xF0FF⟩
  | .ldB _ => ⟨0xF033, 0xF0FF⟩
  | .storeRegs _ => ⟨0xF055, 0xF0FF⟩
  | .loadRegs _ => ⟨0xF065, 0xF0FF⟩
  | .unrecognized _ => ⟨0x0000, 0x0000⟩

/-- The rows of families 0 to 7. -/
def opcodeMapLow : List OpRow :=
  [⟨0x00E0, 0xF0FF⟩, ⟨0x00EE, 0xF0FF⟩, ⟨0x0000, 0xF000⟩, ⟨0x1000, 0xF000⟩, ⟨0x2000, 0xF000⟩, ⟨0x3000, 0xF000⟩,
   ⟨0x4000, 0xF000⟩, ⟨0x5000, 0xF00F⟩, ⟨0x6000, 0xF000⟩, ⟨0x7000, 0xF000⟩]

/-- The rows of families 8 to D. -/
def opcodeMapMid : List OpRow :=
  [⟨0x8000, 0xF00F⟩, ⟨0x8001, 0xF00F⟩, ⟨0x8002, 0xF00F⟩, ⟨0x8003, 0xF00F⟩, ⟨0x8004, 0xF00F⟩, ⟨0x8005, 0xF00F⟩,
   ⟨0x8006, 0xF00F⟩, ⟨0x8007, 0xF00F⟩, ⟨0x800E, 0xF00F⟩, ⟨0x9000, 0xF00F⟩, ⟨0xA000, 0xF000⟩, ⟨0xB000, 0xF000⟩,
   ⟨0xC000, 0xF000⟩, ⟨0xD000, 0xF000⟩]

/-- The rows of families E and F and the catch-all. -/
def opcodeMapHigh : List OpRow :=
  [⟨0xE09E, 0xF0FF⟩, ⟨0xE0A1, 0xF0FF⟩, ⟨0xF007, 0xF0FF⟩, ⟨0xF00A, 0xF0FF⟩, ⟨0xF015, 0xF0FF⟩, ⟨0xF018, 0xF0FF⟩,
   ⟨0xF01E, 0xF0FF⟩, ⟨0xF029, 0xF0FF⟩, ⟨0xF033, 0xF0FF⟩, ⟨0xF055, 0xF0FF⟩, ⟨0xF065, 0xF0FF⟩, ⟨0x0000, 0x0000⟩]

/-- The whole map of R95, in its order. -/
def opcodeMap : List OpRow := opcodeMapLow ++ opcodeMapMid ++ opcodeMapHigh

/-- The word selects the row: `w & mask = match` (R95). -/
def OpRow.selectedBy (r : OpRow) (w : Word) : Prop := w &&& r.mask = r.pattern

end Sys2Proof
end

