-- ==== Sys2Proof/Machine/Memory.lean ====
section
/-! DEFINITION. Memory as a canonical list of its nonzero bytes, and the two operations on it (spec/20_memory.md). An
address is a natural number; whether it exists is asked by `firstOutOfRange` (Machine/Ops.lean) before any access. -/

namespace Sys2Proof.Machine

/-- The canonical form: addresses strictly rising, no byte equal to what an unlisted address reads as, and every address
one that exists (R46). -/
abbrev Memory.wf (m : Memory) : Prop :=
  m.Pairwise (fun p q => p.1 < q.1) ∧ ∀ c ∈ m, c.2 ≠ Config.memFill ∧ c.1 < Config.memSize

/-- The byte at an address (R9, `MemRead(addr, 1)`). -/
def Memory.read : Memory → Nat → Byte
  | [], _ => Config.memFill
  | (b, v) :: m, a => if b = a then v else Memory.read m a

/-- Store one byte (R9, `MemWrite(addr, 1, v)`), keeping the canonical form. -/
def Memory.write : Memory → Nat → Byte → Memory
  | [], a, v => if v = Config.memFill then [] else [(a, v)]
  | (b, w) :: m, a, v =>
    if a < b then
      if v = Config.memFill then (b, w) :: m else (a, v) :: (b, w) :: m
    else if a = b then
      if v = Config.memFill then m else (a, v) :: m
    else (b, w) :: Memory.write m a v

/-- Store bytes at rising addresses from `base` on. The address does not wrap (R188). -/
def Memory.storeBytes : Memory → Nat → List Byte → Memory
  | m, _, [] => m
  | m, base, v :: vs => Memory.storeBytes (Memory.write m base v) (base + 1) vs

end Sys2Proof.Machine
end

