-- ==== Sys2Proof/Machine/Operands.lean ====
section
/-! DEFINITION. The operand forms (spec/30_encoding.md R93): registers, addresses, and the values that instructions form
from a register before they use it. An immediate byte is used as it is. -/

namespace Sys2Proof.Machine

/-- `V[r]` (R9, R30). -/
def State.reg (s : State) (r : Reg) : Byte := s.V[r.val]

/-- `V[r] <- v` (R9, R31). -/
def State.setReg (s : State) (r : Reg) (v : Byte) : State := { s with V := s.V.set r.val v }

/-- `I <- v` (R9, R33). -/
def State.setIndex (s : State) (v : Word) : State := { s with I := v }

/-- The flag register, `VF` (R32). -/
abbrev flagReg : Reg := 15

/-- All register numbers, rising. -/
def allRegs : List Reg := [0, 1, 2, 3, 4, 5, 6, 7, 8, 9, 10, 11, 12, 13, 14, 15]

/-- The registers `V0..Vx`, rising (R188, R189: `for k in 0..X`). -/
def regsUpTo (x : Reg) : List Reg := allRegs.take (x.val + 1)

/-- A 12-bit address widened with zero bits (R93, `zext_16`). -/
def zextAddr (nnn : Addr12) : Word := nnn.setWidth 16

/-- The register that a shift reads: `Vx` with SHIFT set, else `Vy` (R160, R161). -/
def State.shiftSource (s : State) (x y : Reg) : Byte := if s.compat.shift then s.reg x else s.reg y

/-- `keyHeld(v)`: the snapshot's bit `v`; a value of 16 or more names no key (R141, D13). -/
def State.keyHeld (s : State) (v : Byte) : Bool := decide (v.toNat ≤ 15) && s.keys.getLsbD v.toNat

/-- The address of the glyph that the low nibble of `v` names (R186). -/
def State.glyphAddr (s : State) (v : Byte) : Word :=
  BitVec.ofNat 16 (s.fontOffset + Config.glyphStride * (v &&& 0x0F#8).toNat)

/-- The three decimal digits of a byte, the most significant first (R187). -/
def bcdDigits (v : Byte) : List Byte :=
  [BitVec.ofNat 8 (v.toNat / 100), BitVec.ofNat 8 (v.toNat / 10 % 10), BitVec.ofNat 8 (v.toNat % 10)]

/-- The index register after a bulk store or load of `V0..Vx`: advanced unless LOAD_STORE is set (R188, R189). -/
def State.bulkIndex (s : State) (x : Reg) : Word :=
  if s.compat.loadStore then s.I else BitVec.ofNat 16 (s.I.toNat + x.val + 1)

end Sys2Proof.Machine
end

