-- ==== Sys2Proof/Machine/Ops.lean ====
section
/-! DEFINITION. The operations that meanings share: the instruction pointer, memory, the random byte, the fatal errors,
and construction. -/

namespace Sys2Proof.Machine

/-- What a step or a meaning answers. -/
abbrev Answer := Host.Outcome State Fault Refusal

/-! ## The instruction pointer (R36, R37) -/

/-- `ip = stack[sp]` (R36). -/
def State.ip (s : State) : Word := s.stack[s.sp.val]

/-- `ip <- target` (R9). -/
def State.setIp (s : State) (target : Word) : State := { s with stack := s.stack.set s.sp.val target }

/-- `sp <- k` (R34): `ip` is then what slot `k` holds. -/
def State.setSp (s : State) (k : Fin 255) : State := { s with sp := k }

/-- `ip <- (ip + 2) mod 65536`: the fetch's advance (R113). -/
def State.advanceIp (s : State) : State := s.setIp (s.ip + 2)

/-- The skip action, taken when the condition holds (R136). -/
def State.skipIf (s : State) (taken : Bool) : State := s.setIp (if taken then s.ip + 2 else s.ip)

/-- The instruction pointer has run off memory (R116). -/
def State.halted (s : State) : Bool := decide (Config.memSize ≤ s.ip.toNat)

/-! ## Memory and the display as instructions and the host see them -/

/-- `MemRead(a, 1)` (R9). -/
def State.readByte (s : State) (a : Nat) : Byte := s.mem.read a

/-- Store bytes at rising addresses from `base` on (R187, R188). -/
def State.storeBytes (s : State) (base : Nat) (bytes : List Byte) : State :=
  { s with mem := s.mem.storeBytes base bytes }

/-- Load registers in the order given from rising addresses from `base` on (R189). -/
def State.loadRegsFrom (s : State) (base : Nat) : List Reg → State
  | [] => s
  | r :: rs => State.loadRegsFrom (s.setReg r (s.readByte base)) (base + 1) rs

/-- The display query: one pixel of the borrowed snapshot (R53). -/
def State.pixel (s : State) (x : Fin 64) (y : Fin 32) : Bool := s.pix[x.val][y.val]

/-- The whole display buffer is replaced (R130, R212). -/
def State.setDisplay (s : State) (d : Display) : State := { s with pix := d }

/-! ## Timers and key wait -/

/-- `DT <- v` (R39). -/
def State.setDelay (s : State) (v : Byte) : State := { s with DT := v }

/-- `ST <- v` (R39). -/
def State.setSound (s : State) (v : Byte) : State := { s with ST := v }

/-- `waiting <- true; waitReg <- x` (R41). -/
def State.startWait (s : State) (x : Reg) : State := { s with waiting := true, waitReg := x }

/-- The step's answer (R49). -/
def State.setResult (s : State) (r : StepResult) : State := { s with result := r }

/-! ## Fatal errors (R230 to R234)

There is no return from a fatal error (R243): nothing stands beside the entry but `State.load`, the one way to a core that
runs again (R234). -/

/-- Entry into a fatal error: `fault` takes the cause and the step answers `Err(cause)`; nothing else changes (R233). -/
def State.raise (s : State) (cause : FatalError) : State := { s with fault := some cause, result := .err cause }

/-- The first address of `base .. base + n - 1` that does not exist, if any (R74, R230: "the lowest address"). -/
def firstOutOfRange (base n : Nat) : Option Nat :=
  ((List.range n).map (base + ·)).find? (fun a => decide (Config.memSize ≤ a))

/-- An instruction that accesses `n` bytes from `base` on checks them all before it writes anything: `MemoryFault` of the
first that does not exist, else the effect (R74, D6). -/
def checked (s : State) (base n : Nat) (effect : State) : Answer :=
  match firstOutOfRange base n with
  | some a => .next (s.raise (.memoryFault a))
  | none => .next effect

/-! ## The random byte (R50, R170, log 3) -/

/-- `Rnd()`: the next supplied byte, or past the supplied ones a free value. -/
def State.rnd (s : State) : Byte := s.random.headD (Config.freeRandom s.freeDraws)

/-- The random byte is consumed: one per execution of RND. -/
def State.consumeRnd (s : State) : State :=
  { s with random := s.random.tail, freeDraws := if s.random.isEmpty then s.freeDraws + 1 else s.freeDraws }

/-! ## Construction and configuration (R48, R51, R60, R261) -/

/-- The preconditions of `load`: both images fit and they do not overlap (R261, D20). -/
def loadAdmitted (program font : List Byte) (fontOffset : Nat) : Bool :=
  decide (program.length ≤ Config.memSize - Config.progBase)
    && decide (fontOffset + font.length ≤ Config.memSize)
    && (decide (fontOffset + font.length ≤ Config.progBase)
        || decide (Config.progBase + program.length ≤ fontOffset))

/-- Memory after `load`: the font at its offset, the program at `0x200`, zeros elsewhere (R48, R60). -/
def loadedMemory (program font : List Byte) (fontOffset : Nat) : Memory :=
  Memory.storeBytes (Memory.storeBytes [] fontOffset font) Config.progBase program

/-- `load` (R48): every piece of the core's state as R60 says; what the host will still do is no state of the core and
stays (log 7). -/
def State.load (s : State) (program font : List Byte) (fontOffset : Nat) : Answer :=
  if loadAdmitted program font fontOffset then
    .next { State.reset with
      mem := loadedMemory program font fontOffset
      fontOffset := fontOffset
      calls := s.calls
      random := s.random
      freeCalls := s.freeCalls
      freeDraws := s.freeDraws }
  else .refused .loadNotAdmitted

/-- `enableCompat` (R51): one flag becomes true, whatever the fault status (R234). -/
def State.enableCompat (s : State) : CompatFlag → State
  | .loadStore => { s with compat := { s.compat with loadStore := true } }
  | .shift => { s with compat := { s.compat with shift := true } }

/-! ## Placing an instruction where the next step fetches it -/

/-- The next transaction is a step call: a pending call that is none gets one before it. -/
def stepCallNext : List HostCall → List HostCall
  | [] => []
  | .step m e :: cs => .step m e :: cs
  | .enableCompat f :: cs => .step 0 0 :: .enableCompat f :: cs
  | .load p f o :: cs => .step 0 0 :: .load p f o :: cs

/-- The word stands at `ip` (at `0x200` where `ip` leaves no room for it), and nothing keeps the next step from fetching
it: no recorded fault, no key-wait, no other transaction first (log 4). -/
def State.placeWord (s : State) (w : Word) : State :=
  let ip := if s.ip.toNat + 2 ≤ Config.memSize then s.ip else BitVec.ofNat 16 Config.progBase
  { s with
    stack := s.stack.set s.sp.val ip
    mem := s.mem.storeBytes ip.toNat (bytesOfWord w)
    fault := none
    waiting := false
    calls := stepCallNext s.calls }

end Sys2Proof.Machine
end

