-- ==== Sys2Proof/Machine/Alu.lean ====
section
/-! DEFINITION. The register and ALU instructions (spec/42_register_alu.md). -/

namespace Sys2Proof.Machine

/-- The common end of the flag-setting operations: the result into `V[X]`, then the flag into `VF` (R152, D9). -/
def State.setResultFlag (s : State) (x : Reg) (result : Byte) (flag : Bool) : State :=
  (s.setReg x result).setReg flagReg (flagByte flag)

/-- LD Vx, byte (R150). -/
def execLdImm (x : Reg) (nn : Byte) (s : State) : Answer := .next (s.setReg x nn)

/-- ADD Vx, byte: no carry out (R151). -/
def execAddImm (x : Reg) (nn : Byte) (s : State) : Answer := .next (s.setReg x (addResult (s.reg x) nn))

/-- LD Vx, Vy (R153). -/
def execLdReg (x y : Reg) (s : State) : Answer := .next (s.setReg x (s.reg y))

/-- OR Vx, Vy: no flag (R154, D10). -/
def execOrReg (x y : Reg) (s : State) : Answer := .next (s.setReg x (s.reg x ||| s.reg y))

/-- AND Vx, Vy: no flag (R155, D10). -/
def execAndReg (x y : Reg) (s : State) : Answer := .next (s.setReg x (s.reg x &&& s.reg y))

/-- XOR Vx, Vy: no flag (R156, D10). -/
def execXorReg (x y : Reg) (s : State) : Answer := .next (s.setReg x (s.reg x ^^^ s.reg y))

/-- ADD Vx, Vy: the flag is the carry (R157). -/
def execAddReg (x y : Reg) (s : State) : Answer :=
  .next (s.setResultFlag x (addResult (s.reg x) (s.reg y)) (addCarry (s.reg x) (s.reg y)))

/-- SUB Vx, Vy: the flag is 1 when there is no borrow (R158). -/
def execSubReg (x y : Reg) (s : State) : Answer :=
  .next (s.setResultFlag x (subResult (s.reg x) (s.reg y)) (!subBorrow (s.reg x) (s.reg y)))

/-- SUBN Vx, Vy: `y - x`, and the flag is 1 when there IS a borrow (R159, 90_conflicts.md C3). -/
def execSubn (x y : Reg) (s : State) : Answer :=
  .next (s.setResultFlag x (subResult (s.reg y) (s.reg x)) (subBorrow (s.reg y) (s.reg x)))

/-- SHR Vx, Vy (R160). -/
def execShr (x y : Reg) (s : State) : Answer :=
  .next (s.setResultFlag x (shrResult (s.shiftSource x y)) (shrOut (s.shiftSource x y)))

/-- SHL Vx, Vy (R161). -/
def execShl (x y : Reg) (s : State) : Answer :=
  .next (s.setResultFlag x (shlResult (s.shiftSource x y)) (shlOut (s.shiftSource x y)))

/-- RND Vx, byte: one random byte under the mask (R170). -/
def execRnd (x : Reg) (nn : Byte) (s : State) : Answer := .next (s.consumeRnd.setReg x (s.rnd &&& nn))

end Sys2Proof.Machine
end

