-- ==== Sys2Proof/Machine/Raster.lean ====
section
/-! DEFINITION. The display rasterizer (spec/44_draw.md R210 to R212): the pixel buffer and the drawing of a sprite. -/

namespace Sys2Proof.Machine

/-- `Pix[x][y]` (R47, R210). -/
def Display.get (d : Display) (x : Fin 64) (y : Fin 32) : Bool := (d[x.val])[y.val]

/-- `Pix[x][y] <- b` (R9). -/
def Display.set (d : Display) (x : Fin 64) (y : Fin 32) (b : Bool) : Display :=
  Vector.set d x.val (Vector.set d[x.val] y.val b)

/-- Every pixel off (R130). -/
def Display.clear : Display := Vector.replicate 64 (Vector.replicate 32 false)

/-- A column, wrapped: `x mod 64` (R210). -/
def wrapX (x : Nat) : Fin 64 := Fin.ofNat 64 x

/-- A row, wrapped: `y mod 32` (R210). -/
def wrapY (y : Nat) : Fin 32 := Fin.ofNat 32 y

/-- Column offset `c` of a sprite's row: bit `7 - c`, the most significant bit first (R211). -/
def spriteBit (row : Byte) (c : Nat) : Bool := row.getLsbD (7 - c)

/-- One set sprite bit on one pixel: XOR, and a pixel that was on is a collision (R212). -/
def plot (x : Fin 64) (y : Fin 32) (dc : Display × Bool) : Display × Bool :=
  if Display.get dc.1 x y then (Display.set dc.1 x y false, true) else (Display.set dc.1 x y true, dc.2)

/-- One row of a sprite: `for c in 0..7` (R212). -/
def drawRow (row : Byte) (x0 y : Nat) (dc : Display × Bool) : Display × Bool :=
  (List.range 8).foldl (fun acc c => if spriteBit row c then plot (wrapX (x0 + c)) (wrapY y) acc else acc) dc

/-- The whole sprite: `for r in 0..N-1` (R212), with the row `r` given by `rowAt r` (R211). Answers the new buffer and
whether any collision happened; the collision starts at 0 and is never cleared within the draw. -/
def drawSprite (rowAt : Nat → Byte) (n x0 y0 : Nat) (d : Display) : Display × Bool :=
  (List.range n).foldl (fun acc r => drawRow (rowAt r) x0 (y0 + r) acc) (d, false)

end Sys2Proof.Machine
end

