-- ==== Sys2Proof/Machine/ControlFlow.lean ====
section
/-! DEFINITION. The control-flow instructions (spec/41_control_flow.md). `ip` has been advanced past the instruction (R10).
None of them writes a flag. -/

namespace Sys2Proof.Machine

/-- CLS: every pixel off (R130). -/
def execCls (s : State) : Answer := .next (s.setDisplay Display.clear)

/-- RET: `if sp > 0: sp <- sp - 1`; at `sp = 0` a no-op (R131). -/
def execRet (s : State) : Answer := .next (s.setSp ⟨s.sp.val - 1, by omega⟩)

/-- SYS: no state change (R132, D5). -/
def execSys (_nnn : Addr12) (s : State) : Answer := .next s

/-- JP (R133). -/
def execJp (nnn : Addr12) (s : State) : Answer := .next (s.setIp (zextAddr nnn))

/-- CALL: StackOverflow with the stack full, else one slot up and the target in it (R134, R231). -/
def execCall (nnn : Addr12) (s : State) : Answer :=
  if h : s.sp.val + 1 ≤ Config.maxSp then
    .next ((s.setSp ⟨s.sp.val + 1, Nat.lt_succ_of_le h⟩).setIp (zextAddr nnn))
  else .next (s.raise .stackOverflow)

/-- JP V0: `NNN + V0`, not masked to 12 bits (R135, D14). -/
def execJpV0 (nnn : Addr12) (s : State) : Answer :=
  .next (s.setIp (BitVec.ofNat 16 (nnn.toNat + (s.reg 0).toNat)))

/-- SE Vx, byte (R137). -/
def execSeImm (x : Reg) (nn : Byte) (s : State) : Answer := .next (s.skipIf (s.reg x == nn))

/-- SNE Vx, byte (R138). -/
def execSneImm (x : Reg) (nn : Byte) (s : State) : Answer := .next (s.skipIf (s.reg x != nn))

/-- SE Vx, Vy (R139). -/
def execSeReg (x y : Reg) (s : State) : Answer := .next (s.skipIf (s.reg x == s.reg y))

/-- SNE Vx, Vy (R140). -/
def execSneReg (x y : Reg) (s : State) : Answer := .next (s.skipIf (s.reg x != s.reg y))

/-- SKP Vx (R142). -/
def execSkp (x : Reg) (s : State) : Answer := .next (s.skipIf (s.keyHeld (s.reg x)))

/-- SKNP Vx (R143). -/
def execSknp (x : Reg) (s : State) : Answer := .next (s.skipIf (!s.keyHeld (s.reg x)))

/-- An unrecognized word: no state change (R115, R162, R190). -/
def execUnrecognized (_w : Word) (s : State) : Answer := .next s

end Sys2Proof.Machine
end

