-- ==== Sys2Proof/Machine/Draw.lean ====
section
/-! DEFINITION. The draw instruction (spec/44_draw.md R212). -/

namespace Sys2Proof.Machine

/-- The sprite of height `n` at `I`, drawn at the coordinates in `V[X]`, `V[Y]`: the new buffer and the collision, both
computed from the state before the instruction (R212, D12). -/
def State.drawn (s : State) (x y : Reg) (n : Fin 16) : Display × Bool :=
  drawSprite (fun r => s.readByte (s.I.toNat + r)) n.val ((s.reg x).toNat % 64) ((s.reg y).toNat % 32) s.pix

/-- DRW Vx, Vy, nibble: the addresses are checked first, `VF` is written last (R212). -/
def execDrw (x y : Reg) (n : Fin 16) (s : State) : Answer :=
  checked s s.I.toNat n.val
    ((s.setDisplay (s.drawn x y n).1).setReg flagReg (flagByte (s.drawn x y n).2))

end Sys2Proof.Machine
end

