-- ==== Sys2Proof/Machine/IndexMisc.lean ====
section
/-! DEFINITION. The index register, the timers, the key wait, and the memory stores and loads (spec/43_index_misc.md). -/

namespace Sys2Proof.Machine

/-- LD I, addr (R180). -/
def execLdI (nnn : Addr12) (s : State) : Answer := .next (s.setIndex (zextAddr nnn))

/-- LD Vx, DT (R181). -/
def execLdVxDT (x : Reg) (s : State) : Answer := .next (s.setReg x s.DT)

/-- LD Vx, K: enter the key-wait state; `V[X]` is written by a later step (R182). -/
def execLdVxK (x : Reg) (s : State) : Answer := .next (s.startWait x)

/-- LD DT, Vx (R183). -/
def execLdDTVx (x : Reg) (s : State) : Answer := .next (s.setDelay (s.reg x))

/-- LD ST, Vx (R184). -/
def execLdSTVx (x : Reg) (s : State) : Answer := .next (s.setSound (s.reg x))

/-- ADD I, Vx: modulo 65536, no flag (R185, D15). -/
def execAddI (x : Reg) (s : State) : Answer :=
  .next (s.setIndex (BitVec.ofNat 16 (s.I.toNat + (s.reg x).toNat)))

/-- LD F, Vx (R186). -/
def execLdF (x : Reg) (s : State) : Answer := .next (s.setIndex (s.glyphAddr (s.reg x)))

/-- LD B, Vx: three decimal digits at `I`, `I + 1`, `I + 2` (R187). -/
def execLdB (x : Reg) (s : State) : Answer :=
  checked s s.I.toNat 3 (s.storeBytes s.I.toNat (bcdDigits (s.reg x)))

/-- LD [I], Vx: `V0..Vx` into memory at `I` (R188). -/
def execStoreRegs (x : Reg) (s : State) : Answer :=
  checked s s.I.toNat (x.val + 1)
    ((s.storeBytes s.I.toNat ((regsUpTo x).map s.reg)).setIndex (s.bulkIndex x))

/-- LD Vx, [I]: `V0..Vx` from memory at `I` (R189). -/
def execLoadRegs (x : Reg) (s : State) : Answer :=
  checked s s.I.toNat (x.val + 1)
    ((s.loadRegsFrom s.I.toNat (regsUpTo x)).setIndex (s.bulkIndex x))

end Sys2Proof.Machine
end

