-- ==== Sys2Proof/Machine/Phases.lean ====
section
/-! DEFINITION. The phases of a step around the execute phase (spec/40_step_cycle.md R110 to R116, spec/60_exceptions.md
R240). -/

namespace Sys2Proof.Machine

/-- The host's next transaction, taken off the list; past its end a step call with free arguments (log 1, log 2). -/
def State.takeCall (s : State) : HostCall × State :=
  match s.calls with
  | c :: cs => (c, { s with calls := cs })
  | [] => (.step (Config.freeKeys s.freeCalls) (Config.freeMillis s.freeCalls), { s with freeCalls := s.freeCalls + 1 })

/-- Phase 1: record the input snapshot, clear the beep flag (R110, R42, R44). -/
def State.sample (s : State) (inputBitmask : Word) : State := { s with keys := inputBitmask, beep := false }

/-- The lowest key held in a bitmask (R111: "scan bits 0..15 of the input ascending"). -/
def lowestKey (inputBitmask : Word) : Option Reg := allRegs.find? (fun b => inputBitmask.getLsbD b.val)

/-- Phase 2, a key is held: its number into the waiting register, and the wait is over (R111). -/
def State.endWait (s : State) (key : Reg) : State :=
  { s.setReg s.waitReg (BitVec.ofNat 8 key.val) with waiting := false }

/-- A timer counted down, if positive (R240). -/
def countDown (t : Byte) : Byte := if 0 < t.toNat then t - 1 else t

/-- The accumulated time passes one 60 Hz tick: `acc * 60 > 1000` (R240, D19). -/
def tickFires (acc : Nat) : Bool := decide (acc * 60 > 1000)

/-- Phase 3 (R112, R240, R241). -/
def State.timerTick (s : State) (elapsedMillis : Nat) : State :=
  let fires := tickFires (s.acc + elapsedMillis)
  { s with
    acc := if fires then 0 else s.acc + elapsedMillis
    DT := if fires then countDown s.DT else s.DT
    ST := if fires then countDown s.ST else s.ST
    beep := if fires && decide (0 < s.ST.toNat) && countDown s.ST == 0 then true else s.beep }

/-- The word at `ip`, big-endian (R72, R113). -/
def State.fetchWord (s : State) : Word :=
  wordOfBytes (s.readByte s.ip.toNat) (s.readByte (s.ip.toNat + 1))

/-- Phase 6: `Ok(halted)`, unless the instruction raised and `Err` is the answer already (R110, R116, R233). -/
def State.report (s : State) : State :=
  { s with result := match s.fault with | none => .ok s.halted | some _ => s.result }

/-- Phase 6 on what the execute phase answered. -/
def reported : Answer → Answer
  | .next t => .next t.report
  | .fault r => .fault r
  | .refused r => .refused r

end Sys2Proof.Machine
end

