-- ==== Sys2Proof/Machine/Transaction.lean ====
section
/-! DEFINITION. The host's transactions: the six phases of a step in their order (spec/40_step_cycle.md R110), and the
construction and configuration ports (spec/10_state.md R48, R51). -/

namespace Sys2Proof.Machine

/-- Phases 3 to 6 (R110): tick, fetch and advance, execute, report. A fetch that faults ends the step with `ip` not
advanced (R113). -/
def State.runInstruction (s : State) (elapsedMillis : Nat) : Answer :=
  let t := s.timerTick elapsedMillis
  match firstOutOfRange t.ip.toNat 2 with
  | some a => .next (t.raise (.memoryFault a))
  | none => reported (exec (decodeWord t.fetchWord) t.advanceIp)

/-- Phases 1 and 2, then the rest unless the core is paused (R110, R111). -/
def State.liveStep (s : State) (inputBitmask : Word) (elapsedMillis : Nat) : Answer :=
  match s.waiting, lowestKey inputBitmask with
  | true, none => .next ((s.sample inputBitmask).setResult (.ok false))
  | true, some k => ((s.sample inputBitmask).endWait k).runInstruction elapsedMillis
  | false, _ => (s.sample inputBitmask).runInstruction elapsedMillis

/-- The step port (R49, R110): phase 0 answers a recorded fault again and changes nothing (R234). -/
def State.stepPort (s : State) (inputBitmask : Word) (elapsedMillis : Nat) : Answer :=
  match s.fault with
  | some cause => .next (s.setResult (.err cause))
  | none => s.liveStep inputBitmask elapsedMillis

/-- One transaction at one port (R48, R49, R51). -/
def State.transact (s : State) : HostCall → Answer
  | .step m e => s.stepPort m e
  | .enableCompat f => .next (s.enableCompat f)
  | .load p f o => s.load p f o

/-- The next transaction of the host. -/
def State.nextTransaction (s : State) : Answer := s.takeCall.2.transact s.takeCall.1

end Sys2Proof.Machine
end

