-- ==== Sys2Proof/Machine/Step.lean ====
section
/-! DEFINITION. One step of the model: one transaction of the host (log 1). -/

namespace Sys2Proof.Machine

/-- The next transaction of the host: at most one instruction (R117). -/
def step (s : State) : Host.Outcome State Fault Refusal := s.nextTransaction

/-- The state with a word of spec/opcode_table.json stored where the next step fetches: its low `nbits` bits, zeros above,
big-endian at `ip`. -/
def State.withFetchWord (s : State) (nbits w : Nat) : State := s.placeWord (BitVec.ofNat 16 (w % 2 ^ nbits))

end Sys2Proof.Machine
end

