-- ==== Sys2Proof/Safety.lean ====
section
/-! DEFINITION. The terms claims are stated in: the parts of the state by name and what may change of them (frames), the
states the machine's invariant admits, and a run that is still safe. -/

namespace Sys2Proof.Machine

/-- The parts of the state, as small as a claim can speak of them. -/
inductive Part where
  /-- One general register (R30). -/
  | reg (r : Reg)
  /-- The index register (R33). -/
  | index
  /-- One slot of the call/IP stack (R34). -/
  | slot (k : Fin 255)
  /-- The stack pointer (R34). -/
  | sp
  /-- The delay timer (R39). -/
  | delay
  /-- The sound timer (R39). -/
  | sound
  /-- The compatibility flags (R40). -/
  | compat
  /-- Whether the core waits for a key (R41). -/
  | waiting
  /-- The register that waits for a key (R41). -/
  | waitReg
  /-- The input snapshot (R42). -/
  | keys
  /-- The elapsed-time accumulator (R43). -/
  | acc
  /-- The beep flag (R44). -/
  | beep
  /-- The fault status (R45). -/
  | fault
  /-- One byte of memory, by its address (R46). -/
  | byte (a : Nat)
  /-- One pixel (R47). -/
  | pixel (x : Fin 64) (y : Fin 32)
  /-- The font's offset (R48). -/
  | fontOffset
  /-- The last step's answer (R52). -/
  | result
  /-- The host's calls to come (log 1). -/
  | calls
  /-- The random bytes to come (log 3). -/
  | random
  /-- The count of free calls (log 2). -/
  | freeCalls
  /-- The count of free draws (log 3). -/
  | freeDraws
  deriving DecidableEq, Repr

/-- The part reads the same in both states. -/
def Part.same (s t : State) : Part → Prop
  | .reg r => t.reg r = s.reg r
  | .index => t.I = s.I
  | .slot k => t.stack[k.val] = s.stack[k.val]
  | .sp => t.sp = s.sp
  | .delay => t.DT = s.DT
  | .sound => t.ST = s.ST
  | .compat => t.compat = s.compat
  | .waiting => t.waiting = s.waiting
  | .waitReg => t.waitReg = s.waitReg
  | .keys => t.keys = s.keys
  | .acc => t.acc = s.acc
  | .beep => t.beep = s.beep
  | .fault => t.fault = s.fault
  | .byte a => t.readByte a = s.readByte a
  | .pixel x y => t.pixel x y = s.pixel x y
  | .fontOffset => t.fontOffset = s.fontOffset
  | .result => t.result = s.result
  | .calls => t.calls = s.calls
  | .random => t.random = s.random
  | .freeCalls => t.freeCalls = s.freeCalls
  | .freeDraws => t.freeDraws = s.freeDraws

/-- The FRAME: every part outside `may` reads in `t` as it read in `s`. -/
def OnlyChanges (may : Part → Prop) (s t : State) : Prop := ∀ p : Part, ¬ may p → Part.same s t p

/-- The frame for finitely many parts, listed. -/
def OnlyListed (ps : List Part) (s t : State) : Prop := OnlyChanges (· ∈ ps) s t

/-- What the recorded fault says of the rest of the state: the step that raised answered `Err` of it, a stack overflow
left the stack full (R231), and a memory fault names an address that does not exist (R232). -/
def State.faultConsistent (s : State) : Prop :=
  match s.fault with
  | none => True
  | some .stackOverflow => s.result = .err .stackOverflow ∧ s.sp.val = Config.maxSp
  | some (.memoryFault a) => s.result = .err (.memoryFault a) ∧ Config.memSize ≤ a

/-- The invariant every step keeps. -/
structure State.Inv (s : State) : Prop where
  /-- Memory is in its canonical form, so equal memories are equal data. -/
  memory : s.mem.wf
  /-- Less than one tick of time is accumulated: "`acc` is at most 16 after every step" (R240). -/
  accumulator : s.acc ≤ 16
  /-- The font lies inside memory (R261). -/
  font : s.fontOffset ≤ Config.memSize
  /-- A recorded fault is the one that the last step answered, and it is a true cause. -/
  faults : s.faultConsistent

/-- The run is safe so far: no fatal error is recorded (91_not_in_source.md N4). -/
def State.Running (s : State) : Prop := s.fault = none

/-- The next transaction of the host is `c`, and taking it off the host's list leaves `s0` (log 1, log 2). -/
def State.NextCall (s : State) (c : HostCall) (s0 : State) : Prop := s.takeCall = (c, s0)

/-- The answer is the entry into `MemoryFault(a)`, and nothing else has changed (R232, R233). -/
def FaultsAt (a : Nat) (s : State) (answer : Answer) : Prop :=
  ∃ t, answer = .next t ∧ t.fault = some (.memoryFault a) ∧ t.result = .err (.memoryFault a)
    ∧ OnlyListed [.fault, .result] s t

/-- A set bit of the sprite of height `n` at `I`, drawn at `V[X]`, `V[Y]`, falls on this pixel (R210, R211, R212). -/
def SpriteCovers (s : State) (x y : Reg) (n : Fin 16) (px : Fin 64) (py : Fin 32) : Prop :=
  ∃ r c : Nat, r < n.val ∧ c < 8 ∧ (s.readByte (s.I.toNat + r)).getLsbD (7 - c) = true
    ∧ px.val = ((s.reg x).toNat % 64 + c) % 64 ∧ py.val = ((s.reg y).toNat % 32 + r) % 32

/-- The registers an instruction may write (R30, R32): its destination, and `VF` where it writes the flag. -/
def mayWriteReg (r : Reg) : Instr → Bool
  | .ldImm x _ | .addImm x _ | .ldReg x _ | .orReg x _ | .andReg x _ | .xorReg x _ | .rnd x _ | .ldVxDT x => r == x
  | .addReg x _ | .subReg x _ | .shr x _ | .subn x _ | .shl x _ => r == x || r == 15
  | .drw _ _ _ => r == 15
  | .loadRegs x => decide (r ≤ x)
  | .cls | .ret | .sys _ | .jp _ | .call _ | .seImm _ _ | .sneImm _ _ | .seReg _ _ | .sneReg _ _ | .ldI _ | .jpV0 _
  | .skp _ | .sknp _ | .ldVxK _ | .ldDTVx _ | .ldSTVx _ | .addI _ | .ldF _ | .ldB _ | .storeRegs _
  | .unrecognized _ => false

/-- The preconditions of `load` (R261). -/
def ImagesFit (program font : List Byte) (fontOffset : Nat) : Prop :=
  program.length ≤ 4096 - 0x200 ∧ fontOffset + font.length ≤ 4096
    ∧ (fontOffset + font.length ≤ 0x200 ∨ 0x200 + program.length ≤ fontOffset)

/-- The rows of R60 but those of memory: what `load` leaves in every other piece of state. -/
structure State.ResetValues (s : State) : Prop where
  regs : ∀ r : Reg, s.reg r = 0
  index : s.I = 0
  sp : s.sp = 0
  ip : s.ip = 0x200
  slots : ∀ k : Fin 255, k ≠ 0 → s.stack[k.val] = 0
  delay : s.DT = 0
  sound : s.ST = 0
  pixels : ∀ x y, s.pixel x y = false
  loadStore : s.compat.loadStore = false
  shift : s.compat.shift = false
  waiting : s.waiting = false
  waitReg : s.waitReg = 0
  keys : s.keys = 0
  acc : s.acc = 0
  beep : s.beep = false
  fault : s.fault = none

end Sys2Proof.Machine
end

