-- ==== Sys2Proof/Certificates/Slice0/Obligations.lean ====
section
/-! DEFINITION. The statements for the provers. Each docstring names the rules it formalises; where one rests on a choice
that spec/ marks as its own (a decision D<n>, a derived consequence, general knowledge) or on a log entry, it says so. -/

open Sys2Proof Sys2Proof.Machine

/-! ## Encoding -/

/-- Decoding the bytes of any well-formed instruction, whatever follows them, gives the instruction back and leaves the
rest (R90 to R95; the opcode values are general knowledge, D3). -/
def Obligations.DecodeReadsBackEveryEncoding : Prop :=
  ∀ (i : Instr) (rest : List Byte), i.wellFormed = true → decode (encode i ++ rest) = .ok (i, rest)

/-- Every word decodes to a well-formed instruction, and encoding that gives the word back, but for the ignored bits 11:8
of CLS and RET, which the encoder writes as 0 (R94, D4; log 9). -/
def Obligations.EncodeReadsBackEveryDecoding : Prop :=
  ∀ w : Word, (decodeWord w).wellFormed = true
    ∧ encodeWord (decodeWord w) = if decodeWord w = .cls ∨ decodeWord w = .ret then w &&& 0xF0FF else w

/-- The decoder follows the opcode map of R95: it gives an instruction whose row the word selects, and every other row
that the word selects has a smaller mask, so a lower priority (D3). -/
def Obligations.DecoderFollowsTheOpcodeMap : Prop :=
  ∀ w : Word, (decodeWord w).opRow ∈ opcodeMap ∧ (decodeWord w).opRow.selectedBy w
    ∧ ∀ r ∈ opcodeMap, r.selectedBy w →
        r = (decodeWord w).opRow ∨ r.mask.toNat < (decodeWord w).opRow.mask.toNat

/-- The unrecognized words are exactly those that R96 lists (a derived rule, from R95). -/
def Obligations.UnrecognizedWordsAreTheListedOnes : Prop :=
  ∀ w : Word, (∃ v, decodeWord w = .unrecognized v) ↔ unrecognizedWord w = true

/-- One word of every family, written out from the map of R95 (a check on fixed words). The opcode values are general
knowledge (D3; log 8), and that 0x03E0 is CLS, its bits 11:8 ignored, is decision D4 (log 9). -/
def Obligations.SampleWordsDecode : Prop :=
  [0x03E0, 0x00EE, 0x0123, 0x1ABC, 0x2300, 0x3342, 0x4342, 0x5120, 0x6A2F, 0x7120].map decodeWord
      = [.cls, .ret, .sys 0x123, .jp 0xABC, .call 0x300, .seImm 3 0x42, .sneImm 3 0x42, .seReg 1 2, .ldImm 10 0x2F,
         .addImm 1 0x20]
    ∧ [0x8124, 0x8125, 0x8126, 0x8127, 0x812E, 0x9120, 0xA2F0, 0xB300, 0xC30F, 0xD015].map decodeWord
      = [.addReg 1 2, .subReg 1 2, .shr 1 2, .subn 1 2, .shl 1 2, .sneReg 1 2, .ldI 0x2F0, .jpV0 0x300, .rnd 3 0x0F,
         .drw 0 1 5]
    ∧ [0xE59E, 0xE5A1, 0xF207, 0xF30A, 0xF415, 0xF418, 0xF11E, 0xF229, 0xF033, 0xF255, 0xF265, 0x5121].map decodeWord
      = [.skp 5, .sknp 5, .ldVxDT 2, .ldVxK 3, .ldDTVx 4, .ldSTVx 4, .addI 1, .ldF 2, .ldB 0, .storeRegs 2, .loadRegs 2,
         .unrecognized 0x5121]

/-! ## Control flow -/

/-- CLS turns every pixel off and changes nothing else (R130). -/
def Obligations.ClsTurnsEveryPixelOff : Prop :=
  ∀ s : State, ∃ t, exec .cls s = .next t ∧ (∀ x y, t.pixel x y = false)
    ∧ OnlyChanges (fun p => ∃ x y, p = .pixel x y) s t

/-- RET goes one slot down, so that `ip` is what the caller's slot holds, and at `sp = 0` does nothing (R131). -/
def Obligations.RetReturnsToTheCallersSlot : Prop :=
  ∀ s : State,
    (∀ k : Fin 255, s.sp.val = k.val + 1 →
      ∃ t, exec .ret s = .next t ∧ t.sp = k ∧ t.ip = s.stack[k.val] ∧ OnlyListed [.sp] s t)
    ∧ (s.sp = 0 → exec .ret s = .next s)

/-- SYS and every unrecognized word change nothing in the execute phase (R115; R132 is decision D5). -/
def Obligations.SysAndUnrecognizedChangeNothing : Prop :=
  (∀ (nnn : Addr12) (s : State), exec (.sys nnn) s = .next s)
    ∧ ∀ (w : Word) (s : State), exec (.unrecognized w) s = .next s

/-- JP puts the address, zero-extended, into `ip` (R133). -/
def Obligations.JpReplacesTheInstructionPointer : Prop :=
  ∀ (nnn : Addr12) (s : State), ∃ t, exec (.jp nnn) s = .next t ∧ t.ip.toNat = nnn.toNat ∧ OnlyListed [.slot s.sp] s t

/-- CALL with a slot left goes one slot up with the target in it; the caller's slot keeps the advanced return address
(R134; the threshold is decision D8). -/
def Obligations.CallPushesTheReturnAddress : Prop :=
  ∀ (nnn : Addr12) (s : State) (k : Fin 255), k.val = s.sp.val + 1 →
    ∃ t, exec (.call nnn) s = .next t ∧ t.sp = k ∧ t.ip.toNat = nnn.toNat ∧ t.stack[s.sp.val] = s.ip
      ∧ OnlyListed [.sp, .slot k] s t

/-- CALL at `sp = 254` raises StackOverflow: the fault is recorded and answered, and CALL has no other effect (R231, R233;
decisions D7 and D8). -/
def Obligations.CallOnAFullStackRaisesOverflow : Prop :=
  ∀ (nnn : Addr12) (s : State), s.sp.val = 254 →
    ∃ t, exec (.call nnn) s = .next t ∧ t.fault = some .stackOverflow ∧ t.result = .err .stackOverflow
      ∧ OnlyListed [.fault, .result] s t

/-- Calling, fetching RET (which advances the callee's slot by 2, R113) and returning restores the instruction pointer and
the stack pointer; only the slot that the callee used has changed (95_test_vectors.md L1-8; derived from R131, R134). -/
def Obligations.CallThenReturnRestoresTheCaller : Prop :=
  ∀ (nnn : Addr12) (s : State) (k : Fin 255), k.val = s.sp.val + 1 →
    ∃ t, exec (.call nnn) s = .next t
      ∧ ∀ r : State, r.ip = t.ip + 2 → OnlyListed [.slot t.sp] t r →
        ∃ u, exec .ret r = .next u ∧ u.ip = s.ip ∧ u.sp = s.sp ∧ OnlyListed [.slot k] s u

/-- JP V0 adds register 0 to the address, with no mask (R135; decision D14). -/
def Obligations.JpV0AddsRegisterZero : Prop :=
  ∀ (nnn : Addr12) (s : State), ∃ t, exec (.jpV0 nnn) s = .next t
    ∧ t.ip.toNat = nnn.toNat + (s.reg 0).toNat ∧ OnlyListed [.slot s.sp] s t

/-- SE and SNE with an immediate skip two bytes when the register equals, or differs from, it (R136 to R138). That the sum
wraps modulo 65536 is decision D16 (log 14). -/
def Obligations.ImmediateSkips : Prop :=
  ∀ (x : Reg) (nn : Byte) (s : State),
    (∃ t, exec (.seImm x nn) s = .next t ∧ t.ip = (if s.reg x = nn then s.ip + 2 else s.ip)
      ∧ OnlyListed [.slot s.sp] s t)
    ∧ ∃ t, exec (.sneImm x nn) s = .next t ∧ t.ip = (if s.reg x = nn then s.ip else s.ip + 2)
      ∧ OnlyListed [.slot s.sp] s t

/-- SE and SNE with two registers (R136, R139, R140). That the sum wraps modulo 65536 is decision D16 (log 14). -/
def Obligations.RegisterSkips : Prop :=
  ∀ (x y : Reg) (s : State),
    (∃ t, exec (.seReg x y) s = .next t ∧ t.ip = (if s.reg x = s.reg y then s.ip + 2 else s.ip)
      ∧ OnlyListed [.slot s.sp] s t)
    ∧ ∃ t, exec (.sneReg x y) s = .next t ∧ t.ip = (if s.reg x = s.reg y then s.ip else s.ip + 2)
      ∧ OnlyListed [.slot s.sp] s t

/-- SKP skips when the key that the register names is in the snapshot, SKNP when it is not (R141 to R143, by the skip action
of R136); a value of 16 or more names no key (decision D13; log 10). That the sum wraps modulo 65536 is decision D16
(log 14). -/
def Obligations.KeySkips : Prop :=
  ∀ (x : Reg) (s : State),
    (∃ t, exec (.skp x) s = .next t
      ∧ t.ip = (if (s.reg x).toNat ≤ 15 ∧ s.keys.getLsbD (s.reg x).toNat = true then s.ip + 2 else s.ip)
      ∧ OnlyListed [.slot s.sp] s t)
    ∧ ∃ t, exec (.sknp x) s = .next t
      ∧ t.ip = (if (s.reg x).toNat ≤ 15 ∧ s.keys.getLsbD (s.reg x).toNat = true then s.ip else s.ip + 2)
      ∧ OnlyListed [.slot s.sp] s t

/-! ## Registers and ALU -/

/-- LD Vx, byte (R150). -/
def Obligations.LoadImmediate : Prop :=
  ∀ (x : Reg) (nn : Byte) (s : State), ∃ t, exec (.ldImm x nn) s = .next t ∧ t.reg x = nn ∧ OnlyListed [.reg x] s t

/-- ADD Vx, byte wraps modulo 256 and writes no flag (R151). -/
def Obligations.AddImmediateWrapsWithoutFlag : Prop :=
  ∀ (x : Reg) (nn : Byte) (s : State), ∃ t, exec (.addImm x nn) s = .next t
    ∧ (t.reg x).toNat = ((s.reg x).toNat + nn.toNat) % 256 ∧ OnlyListed [.reg x] s t

/-- LD Vx, Vy (R153; its direction is general knowledge, K7). -/
def Obligations.CopyRegister : Prop :=
  ∀ (x y : Reg) (s : State), ∃ t, exec (.ldReg x y) s = .next t ∧ t.reg x = s.reg y ∧ OnlyListed [.reg x] s t

/-- OR, AND and XOR, bit by bit, writing no flag (R154 to R156; decision D10). -/
def Obligations.LogicalOperationsBitByBit : Prop :=
  ∀ (x y : Reg) (s : State),
    (∃ t, exec (.orReg x y) s = .next t
      ∧ (∀ k < 8, (t.reg x).getLsbD k = ((s.reg x).getLsbD k || (s.reg y).getLsbD k)) ∧ OnlyListed [.reg x] s t)
    ∧ (∃ t, exec (.andReg x y) s = .next t
      ∧ (∀ k < 8, (t.reg x).getLsbD k = ((s.reg x).getLsbD k && (s.reg y).getLsbD k)) ∧ OnlyListed [.reg x] s t)
    ∧ ∃ t, exec (.xorReg x y) s = .next t
      ∧ (∀ k < 8, (t.reg x).getLsbD k = ((s.reg x).getLsbD k ^^ (s.reg y).getLsbD k)) ∧ OnlyListed [.reg x] s t

/-- ADD Vx, Vy: the sum modulo 256, then `VF` = 1 exactly when the exact sum exceeds 255; with `X = 15` the flag stays
(R149, R157; the order of the writes is decision D9). -/
def Obligations.AddRegistersSetsCarry : Prop :=
  ∀ (x y : Reg) (s : State), ∃ t, exec (.addReg x y) s = .next t
    ∧ (x ≠ 15 → (t.reg x).toNat = ((s.reg x).toNat + (s.reg y).toNat) % 256)
    ∧ t.reg 15 = (if (s.reg x).toNat + (s.reg y).toNat > 255 then 1 else 0)
    ∧ OnlyListed [.reg x, .reg 15] s t

/-- SUB Vx, Vy: `x - y` modulo 256, then `VF` = 0 exactly when `x < y` (R149, R158; decision D9). -/
def Obligations.SubtractClearsFlagOnBorrow : Prop :=
  ∀ (x y : Reg) (s : State), ∃ t, exec (.subReg x y) s = .next t
    ∧ (x ≠ 15 → ((t.reg x).toNat : Int) = (((s.reg x).toNat : Int) - ((s.reg y).toNat : Int)) % 256)
    ∧ t.reg 15 = (if (s.reg x).toNat < (s.reg y).toNat then 0 else 1)
    ∧ OnlyListed [.reg x, .reg 15] s t

/-- SUBN Vx, Vy: `y - x` modulo 256, then `VF` = 1 exactly when `y < x` (R149, R159; decision D9, operand order K8). -/
def Obligations.ReverseSubtractSetsFlagOnBorrow : Prop :=
  ∀ (x y : Reg) (s : State), ∃ t, exec (.subn x y) s = .next t
    ∧ (x ≠ 15 → ((t.reg x).toNat : Int) = (((s.reg y).toNat : Int) - ((s.reg x).toNat : Int)) % 256)
    ∧ t.reg 15 = (if (s.reg y).toNat < (s.reg x).toNat then 1 else 0)
    ∧ OnlyListed [.reg x, .reg 15] s t

/-- SHR and SHL shift `Vy`, or `Vx` when SHIFT is set, by one into `Vx`, then `VF` takes the bit shifted out; `Vy` is only
read (R160, R161; decisions D9 and D11). -/
def Obligations.ShiftsByOne : Prop :=
  ∀ (x y : Reg) (s : State) (src : Nat),
    src = (if s.compat.shift = true then (s.reg x).toNat else (s.reg y).toNat) →
    (∃ t, exec (.shr x y) s = .next t ∧ (x ≠ 15 → (t.reg x).toNat = src / 2) ∧ (t.reg 15).toNat = src % 2
      ∧ OnlyListed [.reg x, .reg 15] s t)
    ∧ ∃ t, exec (.shl x y) s = .next t ∧ (x ≠ 15 → (t.reg x).toNat = src * 2 % 256) ∧ (t.reg 15).toNat = src / 128
      ∧ OnlyListed [.reg x, .reg 15] s t

/-- RND takes one random byte, whatever it is: the next supplied byte, which it consumes, or else a free value of which
nothing is known; `Vx` takes it under the mask (R50, R170; decision D18, log 3). -/
def Obligations.RndMasksOneRandomByte : Prop :=
  ∀ (x : Reg) (nn : Byte) (s : State), ∃ t, exec (.rnd x nn) s = .next t
    ∧ (∀ r rest, s.random = r :: rest → t.reg x = r &&& nn ∧ t.random = rest ∧ t.freeDraws = s.freeDraws)
    ∧ (s.random = [] →
        t.reg x = Config.freeRandom s.freeDraws &&& nn ∧ t.random = [] ∧ t.freeDraws = s.freeDraws + 1)
    ∧ OnlyListed [.reg x, .random, .freeDraws] s t

/-! ## Index register, timers, key wait, memory -/

/-- LD I, addr (R180). -/
def Obligations.LoadIndex : Prop :=
  ∀ (nnn : Addr12) (s : State), ∃ t, exec (.ldI nnn) s = .next t ∧ t.I.toNat = nnn.toNat ∧ OnlyListed [.index] s t

/-- LD Vx, DT (R181). -/
def Obligations.ReadDelayTimer : Prop :=
  ∀ (x : Reg) (s : State), ∃ t, exec (.ldVxDT x) s = .next t ∧ t.reg x = s.DT ∧ OnlyListed [.reg x] s t

/-- LD Vx, K enters the key-wait state and writes no register (R182). -/
def Obligations.KeyWaitIsEntered : Prop :=
  ∀ (x : Reg) (s : State), ∃ t, exec (.ldVxK x) s = .next t ∧ t.waiting = true ∧ t.waitReg = x
    ∧ OnlyListed [.waiting, .waitReg] s t

/-- LD DT, Vx and LD ST, Vx (R183, R184). -/
def Obligations.WriteTimers : Prop :=
  ∀ (x : Reg) (s : State),
    (∃ t, exec (.ldDTVx x) s = .next t ∧ t.DT = s.reg x ∧ OnlyListed [.delay] s t)
    ∧ ∃ t, exec (.ldSTVx x) s = .next t ∧ t.ST = s.reg x ∧ OnlyListed [.sound] s t

/-- ADD I, Vx modulo 65536, not masked to 12 bits, with no flag (R185; decision D15). -/
def Obligations.AddToIndex : Prop :=
  ∀ (x : Reg) (s : State), ∃ t, exec (.addI x) s = .next t
    ∧ t.I.toNat = (s.I.toNat + (s.reg x).toNat) % 65536 ∧ OnlyListed [.index] s t

/-- LD F, Vx: the glyph that the low nibble names, 5 bytes each from the font's offset on (R186). That `I` is taken modulo
65536 is decision D15 (log 14). -/
def Obligations.FontGlyphAddress : Prop :=
  ∀ (x : Reg) (s : State), ∃ t, exec (.ldF x) s = .next t
    ∧ t.I.toNat = (s.fontOffset + 5 * ((s.reg x).toNat % 16)) % 65536 ∧ OnlyListed [.index] s t

/-- LD B, Vx stores the three decimal digits, the most significant first, and keeps `I` (R187). Memory is in its canonical
form, as the invariant says. -/
def Obligations.StoreDecimalDigits : Prop :=
  ∀ (x : Reg) (s : State), s.mem.wf → s.I.toNat + 2 < 4096 →
    ∃ t, exec (.ldB x) s = .next t
      ∧ (t.readByte s.I.toNat).toNat = (s.reg x).toNat / 100
      ∧ (t.readByte (s.I.toNat + 1)).toNat = (s.reg x).toNat / 10 % 10
      ∧ (t.readByte (s.I.toNat + 2)).toNat = (s.reg x).toNat % 10
      ∧ OnlyListed [.byte s.I.toNat, .byte (s.I.toNat + 1), .byte (s.I.toNat + 2)] s t

/-- LD [I], Vx stores `V0..Vx` at `I` and advances `I` past them unless LOAD_STORE is set (R188; the wrap of `I` is decision
D15). -/
def Obligations.StoreRegistersAtIndex : Prop :=
  ∀ (x : Reg) (s : State), s.mem.wf → s.I.toNat + x.val < 4096 →
    ∃ t, exec (.storeRegs x) s = .next t
      ∧ (∀ k : Reg, k ≤ x → t.readByte (s.I.toNat + k.val) = s.reg k)
      ∧ t.I.toNat = (if s.compat.loadStore = true then s.I.toNat else s.I.toNat + x.val + 1)
      ∧ OnlyChanges (fun p => p = .index ∨ ∃ k : Reg, k ≤ x ∧ p = .byte (s.I.toNat + k.val)) s t

/-- LD Vx, [I] loads `V0..Vx` from memory at `I` and advances `I` past them unless LOAD_STORE is set (R189). -/
def Obligations.LoadRegistersFromIndex : Prop :=
  ∀ (x : Reg) (s : State), s.I.toNat + x.val < 4096 →
    ∃ t, exec (.loadRegs x) s = .next t
      ∧ (∀ k : Reg, k ≤ x → t.reg k = s.readByte (s.I.toNat + k.val))
      ∧ t.I.toNat = (if s.compat.loadStore = true then s.I.toNat else s.I.toNat + x.val + 1)
      ∧ OnlyChanges (fun p => p = .index ∨ ∃ k : Reg, k ≤ x ∧ p = .reg k) s t

/-- A memory instruction that would reach past address 4095 raises MemoryFault of the lowest such address and has no other
effect: LD B, LD [I], LD Vx, [I] and DRW of a height above 0 (R74, R232, R233; decisions D6 and D7). -/
def Obligations.OutOfRangeAccessRaisesMemoryFault : Prop :=
  ∀ s : State,
    (∀ x, 4096 < s.I.toNat + 3 → FaultsAt (max s.I.toNat 4096) s (exec (.ldB x) s))
    ∧ (∀ x : Reg, 4096 < s.I.toNat + (x.val + 1) → FaultsAt (max s.I.toNat 4096) s (exec (.storeRegs x) s))
    ∧ (∀ x : Reg, 4096 < s.I.toNat + (x.val + 1) → FaultsAt (max s.I.toNat 4096) s (exec (.loadRegs x) s))
    ∧ ∀ x y (n : Fin 16), 0 < n.val → 4096 < s.I.toNat + n.val →
        FaultsAt (max s.I.toNat 4096) s (exec (.drw x y n) s)

/-! ## Display -/

/-- DRW flips exactly the pixels that the sprite covers, wrapping on both axes, and `VF` ends 1 if one of them was on, else
0 (R210 to R212; decision D12: coordinates and `I` as before the instruction). -/
def Obligations.DrawXorsTheSprite : Prop :=
  ∀ (x y : Reg) (n : Fin 16) (s : State), n.val = 0 ∨ s.I.toNat + n.val ≤ 4096 →
    ∃ t, exec (.drw x y n) s = .next t
      ∧ (∀ px py, (SpriteCovers s x y n px py → t.pixel px py = !s.pixel px py)
          ∧ (¬ SpriteCovers s x y n px py → t.pixel px py = s.pixel px py))
      ∧ ((∃ px py, SpriteCovers s x y n px py ∧ s.pixel px py = true) → t.reg 15 = 1)
      ∧ ((¬ ∃ px py, SpriteCovers s x y n px py ∧ s.pixel px py = true) → t.reg 15 = 0)
      ∧ OnlyChanges (fun p => p = .reg 15 ∨ ∃ px py, p = .pixel px py) s t

/-- Drawing the same sprite twice at the same place restores the display, and the second draw collides exactly where the
sprite covers a pixel that was off at first (derived from R212; log 13 on R212's own remark). With `VF` as a coordinate the
second place is another one. -/
def Obligations.DrawTwiceRestoresTheDisplay : Prop :=
  ∀ (x y : Reg) (n : Fin 16) (s : State), x ≠ 15 → y ≠ 15 → n.val = 0 ∨ s.I.toNat + n.val ≤ 4096 →
    ∃ t u, exec (.drw x y n) s = .next t ∧ exec (.drw x y n) t = .next u
      ∧ (∀ px py, u.pixel px py = s.pixel px py)
      ∧ (u.reg 15 = 1 ↔ ∃ px py, SpriteCovers s x y n px py ∧ s.pixel px py = false)

/-! ## The step transaction -/

/-- A step that is not paused and not faulted runs the instruction at `ip`. Phase 1: `s1` has the bitmask as its snapshot
and no beep, the rest as the host found it (R42, R44). Phase 3: the tick (R112). Phase 4: `u` has `ip` advanced by 2, every
other part as the tick left it (R113; the wrap of the sum is decision D16, log 14). Phase 5: the instruction at `u`
(R114). Phase 6: only `result` is written, `Ok(halted)`, or `Err` of the cause where the instruction raised (R116; R233 is
decision D7, log 5). One call of the host per step of the model is log 1. -/
def Obligations.StepRunsTheDecodedInstruction : Prop :=
  ∀ (s s0 : State) (m : Word) (e : Nat) (i : Instr),
    s.NextCall (.step m e) s0 → s.fault = none → s.waiting = false → s.ip.toNat + 1 < 4096 →
    decode [s.readByte s.ip.toNat, s.readByte (s.ip.toNat + 1)] = .ok (i, []) →
    ∃ s1 u v t, (s1.keys = m ∧ s1.beep = false ∧ OnlyListed [.keys, .beep] s0 s1)
      ∧ (u.ip = s.ip + 2 ∧ OnlyListed [.slot s.sp] (s1.timerTick e) u)
      ∧ exec i u = .next v
      ∧ step s = .next t
      ∧ OnlyListed [.result] v t
      ∧ (v.fault = none → t.result = .ok (decide (4096 ≤ v.ip.toNat)))
      ∧ ∀ c, v.fault = some c → t.result = .err c

/-- A fetch with `ip` at 4095 or above raises MemoryFault of the first address that does not exist; phases 1 and 3 are kept
(`s1` has the bitmask as its snapshot and no beep) and `ip` is not advanced (R42, R113, R233; decisions D6 and D7). -/
def Obligations.FetchOffTheEndRaisesMemoryFault : Prop :=
  ∀ (s s0 : State) (m : Word) (e : Nat),
    s.NextCall (.step m e) s0 → s.fault = none → s.waiting = false → 4095 ≤ s.ip.toNat →
    ∃ s1, s1.keys = m ∧ s1.beep = false ∧ OnlyListed [.keys, .beep] s0 s1
      ∧ FaultsAt (max s.ip.toNat 4096) (s1.timerTick e) (step s)

/-- A waiting core that sees no key is paused: the step answers `Ok(false)`, sets `keys` to the empty snapshot, clears
`beep`, and changes nothing else (R111, R254). -/
def Obligations.KeyWaitPausesTheCore : Prop :=
  ∀ (s s0 : State) (e : Nat), s.NextCall (.step 0 e) s0 → s.fault = none → s.waiting = true →
    ∃ t, step s = .next t ∧ t.keys = 0 ∧ t.beep = false ∧ t.result = .ok false
      ∧ OnlyListed [.keys, .beep, .result, .calls, .freeCalls] s t

/-- A waiting core that sees keys takes the lowest one's number into the waiting register, leaves the wait, and makes in the
same step the step of the core so resumed (R111). -/
def Obligations.KeyWaitTakesTheLowestKey : Prop :=
  ∀ (s s0 : State) (m : Word) (e : Nat) (k : Reg),
    s.NextCall (.step m e) s0 → s.fault = none → s.waiting = true →
    m.getLsbD k.val = true → (∀ j < k, m.getLsbD j.val = false) →
    ∃ u, (u.reg s.waitReg).toNat = k.val ∧ u.waiting = false ∧ OnlyListed [.reg s.waitReg, .waiting] s u
      ∧ step s = step u

/-- The timer tick: below 17 ms accumulated only `acc` grows; from 17 ms on `acc` is 0, each timer is one less if positive,
and `beep` rises when ST reaches 0 (R240; exact arithmetic is decision D19). -/
def Obligations.TimerTickDecrementsAtMostOnce : Prop :=
  ∀ (s : State) (e : Nat),
    (s.acc + e < 17 → (s.timerTick e).acc = s.acc + e ∧ OnlyListed [.acc] s (s.timerTick e))
    ∧ (17 ≤ s.acc + e →
        (s.timerTick e).acc = 0
        ∧ (s.timerTick e).DT.toNat = s.DT.toNat - 1
        ∧ (s.timerTick e).ST.toNat = s.ST.toNat - 1
        ∧ (s.timerTick e).beep = (s.beep || decide (s.ST.toNat = 1))
        ∧ OnlyListed [.acc, .delay, .sound, .beep] s (s.timerTick e))

/-- `beep` is true after a step exactly when that step ticked and the tick took ST from 1 to 0; a paused step clears it, and
no instruction raises it (R241). The tick test is R240 in exact arithmetic (decision D19, log 14), the paused step is R111,
and a core with a recorded fault, whose step changes nothing, is left out (R234, decision D7). -/
def Obligations.BeepExactlyWhenTheSoundTimerExpires : Prop :=
  ∀ (s s0 t : State) (m : Word) (e : Nat),
    s.NextCall (.step m e) s0 → s.fault = none → step s = .next t →
    (t.beep = true ↔ (s.waiting = false ∨ m ≠ 0) ∧ (s.acc + e) * 60 > 1000 ∧ s.ST = 1)

/-- A recorded fatal error is terminal: a step answers it again and changes nothing of the core (R234; decision D7). -/
def Obligations.FatalErrorIsTerminal : Prop :=
  ∀ (s s0 : State) (m : Word) (e : Nat) (c : FatalError),
    s.NextCall (.step m e) s0 → s.fault = some c →
    ∃ t, step s = .next t ∧ t.result = .err c ∧ OnlyListed [.result, .calls, .freeCalls] s t

/-- `enableCompat` makes its flag true and touches no other state of the core (R51), faulted or not (R234, decision D7). The
host's calls to come as a list is the model's form (log 1). -/
def Obligations.EnableCompatSetsOneFlag : Prop :=
  ∀ (s : State) (cs : List HostCall) (f : CompatFlag), s.calls = .enableCompat f :: cs →
    ∃ t, step s = .next t ∧ t.calls = cs
      ∧ (f = .loadStore → t.compat.loadStore = true ∧ t.compat.shift = s.compat.shift)
      ∧ (f = .shift → t.compat.shift = true ∧ t.compat.loadStore = s.compat.loadStore)
      ∧ OnlyListed [.compat, .calls] s t

/-- `load` under its preconditions gives the reset state of R60: the two images, zeros elsewhere, and every other piece of
state at its reset value (the value of `fault` is decision D7, the preconditions decision D20). -/
def Obligations.LoadEstablishesTheResetState : Prop :=
  ∀ (s : State) (cs : List HostCall) (program font : List Byte) (o : Nat),
    s.calls = .load program font o :: cs → ImagesFit program font o →
    ∃ t, step s = .next t ∧ t.ResetValues ∧ t.fontOffset = o ∧ t.calls = cs
      ∧ (∀ k, k < font.length → t.readByte (o + k) = font.getD k 0)
      ∧ (∀ k, k < program.length → t.readByte (0x200 + k) = program.getD k 0)
      ∧ ∀ a, ¬ (o ≤ a ∧ a < o + font.length) → ¬ (0x200 ≤ a ∧ a < 0x200 + program.length) → t.readByte a = 0

/-- `load` outside its preconditions is refused (R261; decision D20, log 7). -/
def Obligations.LoadOutsideItsPreconditionsIsRefused : Prop :=
  ∀ (s : State) (cs : List HostCall) (program font : List Byte) (o : Nat),
    s.calls = .load program font o :: cs → ¬ ImagesFit program font o → step s = .refused .loadNotAdmitted

/-- The model's reset state has the reset values of R60 with no images and the default font offset (log 4; `fault` is
decision D7). -/
def Obligations.ResetHoldsTheResetValues : Prop :=
  State.reset.ResetValues ∧ State.reset.fontOffset = 0 ∧ ∀ a, State.reset.readByte a = 0

/-- A step that is not paused and raises nothing answers `Ok(halted)`, with `halted` true exactly when `ip` has reached 4096
after the instruction (R116). -/
def Obligations.StepReportsHalted : Prop :=
  ∀ (s s0 t : State) (m : Word) (e : Nat),
    s.NextCall (.step m e) s0 → s.fault = none → s.waiting = false ∨ m ≠ 0 → step s = .next t → t.fault = none →
    t.result = .ok (decide (4096 ≤ t.ip.toNat))

/-! ## Rules of the whole machine -/

/-- Every instruction answers a next state in every state, and a step answers one unless the host's next call is a `load`
outside its preconditions (R230: "No other internal operation raises an error"; log 5). -/
def Obligations.EveryStepAnswersANextState : Prop :=
  (∀ (i : Instr) (s : State), ∃ t, exec i s = .next t)
    ∧ ∀ s : State, (∃ t, step s = .next t)
      ∨ step s = .refused .loadNotAdmitted
        ∧ ∃ p f o cs, s.calls = .load p f o :: cs ∧ ¬ ImagesFit p f o

/-- Every step keeps the invariant: memory in the model's own canonical form (log 12), at most 16 ms accumulated (a
consequence that R240 draws, under decision D19; log 14), the font inside memory (R261, decision D20; log 7), and a
recorded fault that is true and was answered (R231 to R233, decisions D7 and D8; log 5, log 14). -/
def Obligations.EveryStepKeepsTheInvariant : Prop :=
  ∀ s t : State, s.Inv → step s = .next t → t.Inv

/-- The invariant (memory in the model's own canonical form, log 12, and the rest) holds at the model's reset state (log 4). -/
def Obligations.InvariantAtReset : Prop := State.reset.Inv

/-- A register changes only by an instruction that has it as destination, or, for `VF`, that writes the flag (R30, R32;
D10). -/
def Obligations.RegistersChangeOnlyByTheirWriters : Prop :=
  ∀ (i : Instr) (s t : State) (r : Reg), exec i s = .next t → t.reg r ≠ s.reg r → mayWriteReg r i = true

/-- The display changes only by CLS and DRW (R213), memory only by LD B and LD [I] (R71), and the index register only by its
five writers (R33). -/
def Obligations.DisplayMemoryAndIndexChangeOnlyByTheirWriters : Prop :=
  ∀ (i : Instr) (s t : State), exec i s = .next t →
    ((∃ px py, t.pixel px py ≠ s.pixel px py) → i = .cls ∨ ∃ x y n, i = .drw x y n)
    ∧ ((∃ a, t.readByte a ≠ s.readByte a) → ∃ x, i = .ldB x ∨ i = .storeRegs x)
    ∧ (t.I ≠ s.I → (∃ nnn, i = .ldI nnn) ∨ ∃ x, i = .addI x ∨ i = .ldF x ∨ i = .storeRegs x ∨ i = .loadRegs x)

/-- No instruction changes the input snapshot, the accumulated time, the beep flag, the compatibility flags, the font's
offset or what the host will still call (R40, R42, R43, R44, R54). -/
def Obligations.InstructionsNeverTouchTheHostsState : Prop :=
  ∀ (i : Instr) (s t : State), exec i s = .next t →
    ∀ p ∈ [Part.keys, .acc, .beep, .compat, .fontOffset, .calls, .freeCalls], Part.same s t p

/-- The saved return addresses of the active calls are changed by no instruction (R36). -/
def Obligations.SavedReturnAddressesAreKept : Prop :=
  ∀ (i : Instr) (s t : State), exec i s = .next t → ∀ k : Fin 255, k < s.sp → t.stack[k.val] = s.stack[k.val]

/-- A compatibility flag that is true stays true in every step but a new `load` (R40, R262). -/
def Obligations.CompatFlagsAreNeverCleared : Prop :=
  ∀ s t : State, (∀ p f o cs, s.calls ≠ .load p f o :: cs) → step s = .next t →
    (s.compat.loadStore = true → t.compat.loadStore = true) ∧ (s.compat.shift = true → t.compat.shift = true)

/-- Memories in canonical form that read the same everywhere are the same data (the model's form of memory, log 12). -/
def Obligations.EqualMemoriesAreEqualData : Prop :=
  ∀ m m' : Memory, m.wf → m'.wf → (∀ a, m.read a = m'.read a) → m = m'

/-- The host's transactions are taken in the order of its list, one for each step, and past its end a `step` call is made
whose arguments are free; nothing of the core changes by that (the model's form of the host of R54; log 1, log 2). -/
def Obligations.HostCallsAreTakenInOrder : Prop :=
  ∀ s : State,
    (∀ c cs, s.calls = c :: cs → ∃ s0, s.NextCall c s0 ∧ s0.calls = cs ∧ OnlyListed [.calls] s s0)
    ∧ (s.calls = [] → ∃ m e s0, s.NextCall (.step m e) s0 ∧ s0.freeCalls = s.freeCalls + 1
        ∧ OnlyListed [.freeCalls] s s0)
end

