-- ==== Sys2Proof/Laws/Memory.lean ====
section
/-! SUPPORT. The laws of memory: a read gives the last byte written, a write leaves every other address alone, and every
operation keeps the canonical form. -/

namespace Sys2Proof.Machine

@[simp] theorem Memory.read_nil (a : Nat) : Memory.read [] a = Config.memFill := rfl

theorem Memory.read_cons (c : Host.Cell) (m : Memory) (a : Nat) :
    Memory.read (c :: m) a = if c.1 = a then c.2 else Memory.read m a := rfl

/-- The tail of a canonical memory is canonical. -/
theorem Memory.wf_tail {c : Host.Cell} {m : Memory} (h : Memory.wf (c :: m)) : Memory.wf m :=
  ⟨(List.pairwise_cons.mp h.1).2, fun d hd => h.2 d (List.mem_cons_of_mem c hd)⟩

/-- A canonical memory lists nothing at or below its first address but that. -/
theorem Memory.read_below {m : Memory} {a : Nat} (h : ∀ c ∈ m, a < c.1) : m.read a = Config.memFill := by
  induction m with
  | nil => rfl
  | cons c m ih =>
    have hc := h c List.mem_cons_self
    rw [Memory.read_cons, if_neg (by omega), ih fun d hd => h d (List.mem_cons_of_mem c hd)]

/-- Read after write. -/
theorem Memory.read_write {m : Memory} (h : Memory.wf m) (a b : Nat) (v : Byte) :
    (m.write a v).read b = if a = b then v else m.read b := by
  induction m with
  | nil =>
    rw [Memory.write]
    by_cases hv : v = Config.memFill
    · simp [hv]
    · rw [if_neg hv, Memory.read_cons]
  | cons c m ih =>
    obtain ⟨p, w⟩ := c
    have hlow : ∀ d ∈ m, p < d.1 := (List.pairwise_cons.mp h.1).1
    have ih := ih (Memory.wf_tail h)
    rw [Memory.write]
    by_cases hap : a < p
    · rw [if_pos hap]
      have hfill : Memory.read ((p, w) :: m) a = Config.memFill :=
        Memory.read_below fun d hd => (List.mem_cons.mp hd).elim (fun e => e ▸ hap)
          fun hd => Nat.lt_trans hap (hlow d hd)
      by_cases hv : v = Config.memFill
      · rw [if_pos hv]
        by_cases hab : a = b
        · rw [if_pos hab, ← hab, hfill, hv]
        · rw [if_neg hab]
      · rw [if_neg hv, Memory.read_cons]
    · rw [if_neg hap]
      by_cases hep : a = p
      · subst hep
        have hfill : Memory.read m a = Config.memFill := Memory.read_below hlow
        rw [if_pos rfl, Memory.read_cons]
        by_cases hv : v = Config.memFill
        · rw [if_pos hv]
          by_cases hab : a = b
          · rw [if_pos hab, ← hab, hfill, hv]
          · rw [if_neg hab, if_neg hab]
        · rw [if_neg hv, Memory.read_cons]
          by_cases hab : a = b
          · rw [if_pos hab, if_pos hab]
          · rw [if_neg hab, if_neg hab, if_neg hab]
      · rw [if_neg hep, Memory.read_cons, Memory.read_cons, ih]
        by_cases hpb : p = b
        · rw [if_pos hpb, if_neg fun hab => hep (hab.trans hpb.symm), if_pos hpb]
        · rw [if_neg hpb, if_neg hpb]

/-- Every cell after a write was there before or is the byte written. -/
theorem Memory.mem_write {m : Memory} {a : Nat} {v : Byte} {c : Host.Cell} (hc : c ∈ m.write a v) :
    c ∈ m ∨ c = (a, v) ∧ v ≠ Config.memFill := by
  induction m with
  | nil =>
    rw [Memory.write] at hc
    split_ifs at hc with hv <;> simp_all
  | cons d m ih =>
    obtain ⟨p, w⟩ := d
    rw [Memory.write] at hc
    split_ifs at hc with h1 h2 h3 h4
    · exact .inl hc
    · rcases List.mem_cons.mp hc with h | h
      · exact .inr ⟨h, h2⟩
      · exact .inl h
    · exact .inl (List.mem_cons_of_mem _ hc)
    · rcases List.mem_cons.mp hc with h | h
      · exact .inr ⟨h, h4⟩
      · exact .inl (List.mem_cons_of_mem _ h)
    · rcases List.mem_cons.mp hc with h | h
      · exact .inl (h ▸ List.mem_cons_self)
      · exact (ih h).imp_left (List.mem_cons_of_mem _)

/-- A write at an address that exists keeps the canonical form. -/
theorem Memory.write_wf {m : Memory} (h : Memory.wf m) {a : Nat} (ha : a < Config.memSize) (v : Byte) :
    Memory.wf (m.write a v) := by
  refine ⟨?_, fun c hc => ?_⟩
  · induction m with
    | nil =>
      rw [Memory.write]
      split_ifs <;> simp
    | cons d m ih =>
      obtain ⟨p, w⟩ := d
      have hlow : ∀ e ∈ m, p < e.1 := (List.pairwise_cons.mp h.1).1
      have ih := ih (Memory.wf_tail h)
      rw [Memory.write]
      split_ifs with h1 h2 h3 h4
      · exact h.1
      · refine List.pairwise_cons.mpr ⟨fun e he => ?_, h.1⟩
        rcases List.mem_cons.mp he with rfl | he
        · exact h1
        · exact Nat.lt_trans h1 (hlow e he)
      · exact (List.pairwise_cons.mp h.1).2
      · subst h3
        exact List.pairwise_cons.mpr ⟨hlow, (List.pairwise_cons.mp h.1).2⟩
      · refine List.pairwise_cons.mpr ⟨fun e he => ?_, ih⟩
        rcases Memory.mem_write he with he | ⟨rfl, -⟩
        · exact hlow e he
        · simp only
          omega
  · rcases Memory.mem_write hc with hc | ⟨rfl, hv⟩
    · exact h.2 c hc
    · exact ⟨hv, ha⟩

/-- Stores at addresses that exist keep the canonical form. -/
theorem Memory.storeBytes_wf {m : Memory} (h : Memory.wf m) (bs : List Byte) {a : Nat}
    (ha : a + bs.length ≤ Config.memSize) : Memory.wf (m.storeBytes a bs) := by
  induction bs generalizing m a with
  | nil => exact h
  | cons v vs ih =>
    rw [List.length_cons] at ha
    rw [Memory.storeBytes]
    exact ih (Memory.write_wf h (by omega) v) (by omega)

/-- What any address reads as after a store of several bytes. -/
theorem Memory.read_storeBytes {m : Memory} (h : Memory.wf m) (bs : List Byte) {a : Nat}
    (ha : a + bs.length ≤ Config.memSize) (b : Nat) :
    (m.storeBytes a bs).read b = if h : a ≤ b ∧ b < a + bs.length then bs[b - a]'(by omega) else m.read b := by
  induction bs generalizing m a with
  | nil =>
    rw [Memory.storeBytes, dif_neg]
    rw [List.length_nil]
    omega
  | cons v vs ih =>
    rw [List.length_cons] at ha
    rw [Memory.storeBytes, ih (Memory.write_wf h (by omega) v) (by omega), Memory.read_write h]
    simp only [List.length_cons]
    by_cases hab : a = b
    · subst hab
      rw [dif_neg (by omega), if_pos rfl, dif_pos (by omega)]
      simp
    · by_cases hin : a + 1 ≤ b ∧ b < a + 1 + vs.length
      · rw [dif_pos hin, dif_pos (by omega)]
        have : b - a = (b - (a + 1)) + 1 := by omega
        simp only [this, List.getElem_cons_succ]
      · rw [dif_neg hin, if_neg hab, dif_neg (by omega)]

end Sys2Proof.Machine
end

