-- ==== Sys2Proof/Laws/State.lean ====
section
/-! SUPPORT. One lemma per field and update: what each named update of the state leaves alone, and what the accessors
give on the part it writes. Later proofs cite these and unfold no record update. -/

namespace Sys2Proof.Machine

/-! ## `State.setReg` (R9: a register write) -/

@[simp] theorem State.setReg_I (s : State) (r : Reg) (v : Byte) : (s.setReg r v).I = s.I := rfl
@[simp] theorem State.setReg_stack (s : State) (r : Reg) (v : Byte) : (s.setReg r v).stack = s.stack := rfl
@[simp] theorem State.setReg_sp (s : State) (r : Reg) (v : Byte) : (s.setReg r v).sp = s.sp := rfl
@[simp] theorem State.setReg_DT (s : State) (r : Reg) (v : Byte) : (s.setReg r v).DT = s.DT := rfl
@[simp] theorem State.setReg_ST (s : State) (r : Reg) (v : Byte) : (s.setReg r v).ST = s.ST := rfl
@[simp] theorem State.setReg_compat (s : State) (r : Reg) (v : Byte) : (s.setReg r v).compat = s.compat := rfl
@[simp] theorem State.setReg_waiting (s : State) (r : Reg) (v : Byte) : (s.setReg r v).waiting = s.waiting := rfl
@[simp] theorem State.setReg_waitReg (s : State) (r : Reg) (v : Byte) : (s.setReg r v).waitReg = s.waitReg := rfl
@[simp] theorem State.setReg_keys (s : State) (r : Reg) (v : Byte) : (s.setReg r v).keys = s.keys := rfl
@[simp] theorem State.setReg_acc (s : State) (r : Reg) (v : Byte) : (s.setReg r v).acc = s.acc := rfl
@[simp] theorem State.setReg_beep (s : State) (r : Reg) (v : Byte) : (s.setReg r v).beep = s.beep := rfl
@[simp] theorem State.setReg_fault (s : State) (r : Reg) (v : Byte) : (s.setReg r v).fault = s.fault := rfl
@[simp] theorem State.setReg_mem (s : State) (r : Reg) (v : Byte) : (s.setReg r v).mem = s.mem := rfl
@[simp] theorem State.setReg_pix (s : State) (r : Reg) (v : Byte) : (s.setReg r v).pix = s.pix := rfl
@[simp] theorem State.setReg_fontOffset (s : State) (r : Reg) (v : Byte) : (s.setReg r v).fontOffset = s.fontOffset := rfl
@[simp] theorem State.setReg_result (s : State) (r : Reg) (v : Byte) : (s.setReg r v).result = s.result := rfl
@[simp] theorem State.setReg_calls (s : State) (r : Reg) (v : Byte) : (s.setReg r v).calls = s.calls := rfl
@[simp] theorem State.setReg_random (s : State) (r : Reg) (v : Byte) : (s.setReg r v).random = s.random := rfl
@[simp] theorem State.setReg_freeCalls (s : State) (r : Reg) (v : Byte) : (s.setReg r v).freeCalls = s.freeCalls := rfl
@[simp] theorem State.setReg_freeDraws (s : State) (r : Reg) (v : Byte) : (s.setReg r v).freeDraws = s.freeDraws := rfl
@[simp] theorem State.setReg_readByte (s : State) (r : Reg) (v : Byte) (addr : Nat) : (s.setReg r v).readByte addr = s.readByte addr := rfl
@[simp] theorem State.setReg_pixel (s : State) (r : Reg) (v : Byte) (x' : Fin 64) (y' : Fin 32) : (s.setReg r v).pixel x' y' = s.pixel x' y' := rfl
@[simp] theorem State.setReg_ip (s : State) (r : Reg) (v : Byte) : (s.setReg r v).ip = s.ip := rfl

/-! ## `State.setIndex` (R9: a write of `I`) -/

@[simp] theorem State.setIndex_V (s : State) (a : Word) : (s.setIndex a).V = s.V := rfl
@[simp] theorem State.setIndex_stack (s : State) (a : Word) : (s.setIndex a).stack = s.stack := rfl
@[simp] theorem State.setIndex_sp (s : State) (a : Word) : (s.setIndex a).sp = s.sp := rfl
@[simp] theorem State.setIndex_DT (s : State) (a : Word) : (s.setIndex a).DT = s.DT := rfl
@[simp] theorem State.setIndex_ST (s : State) (a : Word) : (s.setIndex a).ST = s.ST := rfl
@[simp] theorem State.setIndex_compat (s : State) (a : Word) : (s.setIndex a).compat = s.compat := rfl
@[simp] theorem State.setIndex_waiting (s : State) (a : Word) : (s.setIndex a).waiting = s.waiting := rfl
@[simp] theorem State.setIndex_waitReg (s : State) (a : Word) : (s.setIndex a).waitReg = s.waitReg := rfl
@[simp] theorem State.setIndex_keys (s : State) (a : Word) : (s.setIndex a).keys = s.keys := rfl
@[simp] theorem State.setIndex_acc (s : State) (a : Word) : (s.setIndex a).acc = s.acc := rfl
@[simp] theorem State.setIndex_beep (s : State) (a : Word) : (s.setIndex a).beep = s.beep := rfl
@[simp] theorem State.setIndex_fault (s : State) (a : Word) : (s.setIndex a).fault = s.fault := rfl
@[simp] theorem State.setIndex_mem (s : State) (a : Word) : (s.setIndex a).mem = s.mem := rfl
@[simp] theorem State.setIndex_pix (s : State) (a : Word) : (s.setIndex a).pix = s.pix := rfl
@[simp] theorem State.setIndex_fontOffset (s : State) (a : Word) : (s.setIndex a).fontOffset = s.fontOffset := rfl
@[simp] theorem State.setIndex_result (s : State) (a : Word) : (s.setIndex a).result = s.result := rfl
@[simp] theorem State.setIndex_calls (s : State) (a : Word) : (s.setIndex a).calls = s.calls := rfl
@[simp] theorem State.setIndex_random (s : State) (a : Word) : (s.setIndex a).random = s.random := rfl
@[simp] theorem State.setIndex_freeCalls (s : State) (a : Word) : (s.setIndex a).freeCalls = s.freeCalls := rfl
@[simp] theorem State.setIndex_freeDraws (s : State) (a : Word) : (s.setIndex a).freeDraws = s.freeDraws := rfl
@[simp] theorem State.setIndex_reg (s : State) (a : Word) (q : Reg) : (s.setIndex a).reg q = s.reg q := rfl
@[simp] theorem State.setIndex_readByte (s : State) (a : Word) (addr : Nat) : (s.setIndex a).readByte addr = s.readByte addr := rfl
@[simp] theorem State.setIndex_pixel (s : State) (a : Word) (x' : Fin 64) (y' : Fin 32) : (s.setIndex a).pixel x' y' = s.pixel x' y' := rfl
@[simp] theorem State.setIndex_ip (s : State) (a : Word) : (s.setIndex a).ip = s.ip := rfl

/-! ## `State.setDisplay` (R130, R212: a new display buffer) -/

@[simp] theorem State.setDisplay_V (s : State) (d : Display) : (s.setDisplay d).V = s.V := rfl
@[simp] theorem State.setDisplay_I (s : State) (d : Display) : (s.setDisplay d).I = s.I := rfl
@[simp] theorem State.setDisplay_stack (s : State) (d : Display) : (s.setDisplay d).stack = s.stack := rfl
@[simp] theorem State.setDisplay_sp (s : State) (d : Display) : (s.setDisplay d).sp = s.sp := rfl
@[simp] theorem State.setDisplay_DT (s : State) (d : Display) : (s.setDisplay d).DT = s.DT := rfl
@[simp] theorem State.setDisplay_ST (s : State) (d : Display) : (s.setDisplay d).ST = s.ST := rfl
@[simp] theorem State.setDisplay_compat (s : State) (d : Display) : (s.setDisplay d).compat = s.compat := rfl
@[simp] theorem State.setDisplay_waiting (s : State) (d : Display) : (s.setDisplay d).waiting = s.waiting := rfl
@[simp] theorem State.setDisplay_waitReg (s : State) (d : Display) : (s.setDisplay d).waitReg = s.waitReg := rfl
@[simp] theorem State.setDisplay_keys (s : State) (d : Display) : (s.setDisplay d).keys = s.keys := rfl
@[simp] theorem State.setDisplay_acc (s : State) (d : Display) : (s.setDisplay d).acc = s.acc := rfl
@[simp] theorem State.setDisplay_beep (s : State) (d : Display) : (s.setDisplay d).beep = s.beep := rfl
@[simp] theorem State.setDisplay_fault (s : State) (d : Display) : (s.setDisplay d).fault = s.fault := rfl
@[simp] theorem State.setDisplay_mem (s : State) (d : Display) : (s.setDisplay d).mem = s.mem := rfl
@[simp] theorem State.setDisplay_fontOffset (s : State) (d : Display) : (s.setDisplay d).fontOffset = s.fontOffset := rfl
@[simp] theorem State.setDisplay_result (s : State) (d : Display) : (s.setDisplay d).result = s.result := rfl
@[simp] theorem State.setDisplay_calls (s : State) (d : Display) : (s.setDisplay d).calls = s.calls := rfl
@[simp] theorem State.setDisplay_random (s : State) (d : Display) : (s.setDisplay d).random = s.random := rfl
@[simp] theorem State.setDisplay_freeCalls (s : State) (d : Display) : (s.setDisplay d).freeCalls = s.freeCalls := rfl
@[simp] theorem State.setDisplay_freeDraws (s : State) (d : Display) : (s.setDisplay d).freeDraws = s.freeDraws := rfl
@[simp] theorem State.setDisplay_reg (s : State) (d : Display) (q : Reg) : (s.setDisplay d).reg q = s.reg q := rfl
@[simp] theorem State.setDisplay_readByte (s : State) (d : Display) (addr : Nat) : (s.setDisplay d).readByte addr = s.readByte addr := rfl
@[simp] theorem State.setDisplay_ip (s : State) (d : Display) : (s.setDisplay d).ip = s.ip := rfl

/-! ## `State.setSp` (R34: a write of `sp`) -/

@[simp] theorem State.setSp_V (s : State) (k : Fin 255) : (s.setSp k).V = s.V := rfl
@[simp] theorem State.setSp_I (s : State) (k : Fin 255) : (s.setSp k).I = s.I := rfl
@[simp] theorem State.setSp_stack (s : State) (k : Fin 255) : (s.setSp k).stack = s.stack := rfl
@[simp] theorem State.setSp_DT (s : State) (k : Fin 255) : (s.setSp k).DT = s.DT := rfl
@[simp] theorem State.setSp_ST (s : State) (k : Fin 255) : (s.setSp k).ST = s.ST := rfl
@[simp] theorem State.setSp_compat (s : State) (k : Fin 255) : (s.setSp k).compat = s.compat := rfl
@[simp] theorem State.setSp_waiting (s : State) (k : Fin 255) : (s.setSp k).waiting = s.waiting := rfl
@[simp] theorem State.setSp_waitReg (s : State) (k : Fin 255) : (s.setSp k).waitReg = s.waitReg := rfl
@[simp] theorem State.setSp_keys (s : State) (k : Fin 255) : (s.setSp k).keys = s.keys := rfl
@[simp] theorem State.setSp_acc (s : State) (k : Fin 255) : (s.setSp k).acc = s.acc := rfl
@[simp] theorem State.setSp_beep (s : State) (k : Fin 255) : (s.setSp k).beep = s.beep := rfl
@[simp] theorem State.setSp_fault (s : State) (k : Fin 255) : (s.setSp k).fault = s.fault := rfl
@[simp] theorem State.setSp_mem (s : State) (k : Fin 255) : (s.setSp k).mem = s.mem := rfl
@[simp] theorem State.setSp_pix (s : State) (k : Fin 255) : (s.setSp k).pix = s.pix := rfl
@[simp] theorem State.setSp_fontOffset (s : State) (k : Fin 255) : (s.setSp k).fontOffset = s.fontOffset := rfl
@[simp] theorem State.setSp_result (s : State) (k : Fin 255) : (s.setSp k).result = s.result := rfl
@[simp] theorem State.setSp_calls (s : State) (k : Fin 255) : (s.setSp k).calls = s.calls := rfl
@[simp] theorem State.setSp_random (s : State) (k : Fin 255) : (s.setSp k).random = s.random := rfl
@[simp] theorem State.setSp_freeCalls (s : State) (k : Fin 255) : (s.setSp k).freeCalls = s.freeCalls := rfl
@[simp] theorem State.setSp_freeDraws (s : State) (k : Fin 255) : (s.setSp k).freeDraws = s.freeDraws := rfl
@[simp] theorem State.setSp_reg (s : State) (k : Fin 255) (q : Reg) : (s.setSp k).reg q = s.reg q := rfl
@[simp] theorem State.setSp_readByte (s : State) (k : Fin 255) (addr : Nat) : (s.setSp k).readByte addr = s.readByte addr := rfl
@[simp] theorem State.setSp_pixel (s : State) (k : Fin 255) (x' : Fin 64) (y' : Fin 32) : (s.setSp k).pixel x' y' = s.pixel x' y' := rfl

/-! ## `State.setDelay` (R39: a write of `DT`) -/

@[simp] theorem State.setDelay_V (s : State) (v : Byte) : (s.setDelay v).V = s.V := rfl
@[simp] theorem State.setDelay_I (s : State) (v : Byte) : (s.setDelay v).I = s.I := rfl
@[simp] theorem State.setDelay_stack (s : State) (v : Byte) : (s.setDelay v).stack = s.stack := rfl
@[simp] theorem State.setDelay_sp (s : State) (v : Byte) : (s.setDelay v).sp = s.sp := rfl
@[simp] theorem State.setDelay_ST (s : State) (v : Byte) : (s.setDelay v).ST = s.ST := rfl
@[simp] theorem State.setDelay_compat (s : State) (v : Byte) : (s.setDelay v).compat = s.compat := rfl
@[simp] theorem State.setDelay_waiting (s : State) (v : Byte) : (s.setDelay v).waiting = s.waiting := rfl
@[simp] theorem State.setDelay_waitReg (s : State) (v : Byte) : (s.setDelay v).waitReg = s.waitReg := rfl
@[simp] theorem State.setDelay_keys (s : State) (v : Byte) : (s.setDelay v).keys = s.keys := rfl
@[simp] theorem State.setDelay_acc (s : State) (v : Byte) : (s.setDelay v).acc = s.acc := rfl
@[simp] theorem State.setDelay_beep (s : State) (v : Byte) : (s.setDelay v).beep = s.beep := rfl
@[simp] theorem State.setDelay_fault (s : State) (v : Byte) : (s.setDelay v).fault = s.fault := rfl
@[simp] theorem State.setDelay_mem (s : State) (v : Byte) : (s.setDelay v).mem = s.mem := rfl
@[simp] theorem State.setDelay_pix (s : State) (v : Byte) : (s.setDelay v).pix = s.pix := rfl
@[simp] theorem State.setDelay_fontOffset (s : State) (v : Byte) : (s.setDelay v).fontOffset = s.fontOffset := rfl
@[simp] theorem State.setDelay_result (s : State) (v : Byte) : (s.setDelay v).result = s.result := rfl
@[simp] theorem State.setDelay_calls (s : State) (v : Byte) : (s.setDelay v).calls = s.calls := rfl
@[simp] theorem State.setDelay_random (s : State) (v : Byte) : (s.setDelay v).random = s.random := rfl
@[simp] theorem State.setDelay_freeCalls (s : State) (v : Byte) : (s.setDelay v).freeCalls = s.freeCalls := rfl
@[simp] theorem State.setDelay_freeDraws (s : State) (v : Byte) : (s.setDelay v).freeDraws = s.freeDraws := rfl
@[simp] theorem State.setDelay_reg (s : State) (v : Byte) (q : Reg) : (s.setDelay v).reg q = s.reg q := rfl
@[simp] theorem State.setDelay_readByte (s : State) (v : Byte) (addr : Nat) : (s.setDelay v).readByte addr = s.readByte addr := rfl
@[simp] theorem State.setDelay_pixel (s : State) (v : Byte) (x' : Fin 64) (y' : Fin 32) : (s.setDelay v).pixel x' y' = s.pixel x' y' := rfl
@[simp] theorem State.setDelay_ip (s : State) (v : Byte) : (s.setDelay v).ip = s.ip := rfl

/-! ## `State.setSound` (R39: a write of `ST`) -/

@[simp] theorem State.setSound_V (s : State) (v : Byte) : (s.setSound v).V = s.V := rfl
@[simp] theorem State.setSound_I (s : State) (v : Byte) : (s.setSound v).I = s.I := rfl
@[simp] theorem State.setSound_stack (s : State) (v : Byte) : (s.setSound v).stack = s.stack := rfl
@[simp] theorem State.setSound_sp (s : State) (v : Byte) : (s.setSound v).sp = s.sp := rfl
@[simp] theorem State.setSound_DT (s : State) (v : Byte) : (s.setSound v).DT = s.DT := rfl
@[simp] theorem State.setSound_compat (s : State) (v : Byte) : (s.setSound v).compat = s.compat := rfl
@[simp] theorem State.setSound_waiting (s : State) (v : Byte) : (s.setSound v).waiting = s.waiting := rfl
@[simp] theorem State.setSound_waitReg (s : State) (v : Byte) : (s.setSound v).waitReg = s.waitReg := rfl
@[simp] theorem State.setSound_keys (s : State) (v : Byte) : (s.setSound v).keys = s.keys := rfl
@[simp] theorem State.setSound_acc (s : State) (v : Byte) : (s.setSound v).acc = s.acc := rfl
@[simp] theorem State.setSound_beep (s : State) (v : Byte) : (s.setSound v).beep = s.beep := rfl
@[simp] theorem State.setSound_fault (s : State) (v : Byte) : (s.setSound v).fault = s.fault := rfl
@[simp] theorem State.setSound_mem (s : State) (v : Byte) : (s.setSound v).mem = s.mem := rfl
@[simp] theorem State.setSound_pix (s : State) (v : Byte) : (s.setSound v).pix = s.pix := rfl
@[simp] theorem State.setSound_fontOffset (s : State) (v : Byte) : (s.setSound v).fontOffset = s.fontOffset := rfl
@[simp] theorem State.setSound_result (s : State) (v : Byte) : (s.setSound v).result = s.result := rfl
@[simp] theorem State.setSound_calls (s : State) (v : Byte) : (s.setSound v).calls = s.calls := rfl
@[simp] theorem State.setSound_random (s : State) (v : Byte) : (s.setSound v).random = s.random := rfl
@[simp] theorem State.setSound_freeCalls (s : State) (v : Byte) : (s.setSound v).freeCalls = s.freeCalls := rfl
@[simp] theorem State.setSound_freeDraws (s : State) (v : Byte) : (s.setSound v).freeDraws = s.freeDraws := rfl
@[simp] theorem State.setSound_reg (s : State) (v : Byte) (q : Reg) : (s.setSound v).reg q = s.reg q := rfl
@[simp] theorem State.setSound_readByte (s : State) (v : Byte) (addr : Nat) : (s.setSound v).readByte addr = s.readByte addr := rfl
@[simp] theorem State.setSound_pixel (s : State) (v : Byte) (x' : Fin 64) (y' : Fin 32) : (s.setSound v).pixel x' y' = s.pixel x' y' := rfl
@[simp] theorem State.setSound_ip (s : State) (v : Byte) : (s.setSound v).ip = s.ip := rfl

/-! ## `State.startWait` (R182: the key wait begins) -/

@[simp] theorem State.startWait_V (s : State) (x : Reg) : (s.startWait x).V = s.V := rfl
@[simp] theorem State.startWait_I (s : State) (x : Reg) : (s.startWait x).I = s.I := rfl
@[simp] theorem State.startWait_stack (s : State) (x : Reg) : (s.startWait x).stack = s.stack := rfl
@[simp] theorem State.startWait_sp (s : State) (x : Reg) : (s.startWait x).sp = s.sp := rfl
@[simp] theorem State.startWait_DT (s : State) (x : Reg) : (s.startWait x).DT = s.DT := rfl
@[simp] theorem State.startWait_ST (s : State) (x : Reg) : (s.startWait x).ST = s.ST := rfl
@[simp] theorem State.startWait_compat (s : State) (x : Reg) : (s.startWait x).compat = s.compat := rfl
@[simp] theorem State.startWait_keys (s : State) (x : Reg) : (s.startWait x).keys = s.keys := rfl
@[simp] theorem State.startWait_acc (s : State) (x : Reg) : (s.startWait x).acc = s.acc := rfl
@[simp] theorem State.startWait_beep (s : State) (x : Reg) : (s.startWait x).beep = s.beep := rfl
@[simp] theorem State.startWait_fault (s : State) (x : Reg) : (s.startWait x).fault = s.fault := rfl
@[simp] theorem State.startWait_mem (s : State) (x : Reg) : (s.startWait x).mem = s.mem := rfl
@[simp] theorem State.startWait_pix (s : State) (x : Reg) : (s.startWait x).pix = s.pix := rfl
@[simp] theorem State.startWait_fontOffset (s : State) (x : Reg) : (s.startWait x).fontOffset = s.fontOffset := rfl
@[simp] theorem State.startWait_result (s : State) (x : Reg) : (s.startWait x).result = s.result := rfl
@[simp] theorem State.startWait_calls (s : State) (x : Reg) : (s.startWait x).calls = s.calls := rfl
@[simp] theorem State.startWait_random (s : State) (x : Reg) : (s.startWait x).random = s.random := rfl
@[simp] theorem State.startWait_freeCalls (s : State) (x : Reg) : (s.startWait x).freeCalls = s.freeCalls := rfl
@[simp] theorem State.startWait_freeDraws (s : State) (x : Reg) : (s.startWait x).freeDraws = s.freeDraws := rfl
@[simp] theorem State.startWait_reg (s : State) (x : Reg) (q : Reg) : (s.startWait x).reg q = s.reg q := rfl
@[simp] theorem State.startWait_readByte (s : State) (x : Reg) (addr : Nat) : (s.startWait x).readByte addr = s.readByte addr := rfl
@[simp] theorem State.startWait_pixel (s : State) (x : Reg) (x' : Fin 64) (y' : Fin 32) : (s.startWait x).pixel x' y' = s.pixel x' y' := rfl
@[simp] theorem State.startWait_ip (s : State) (x : Reg) : (s.startWait x).ip = s.ip := rfl

/-! ## `State.setResult` (R49: the step's answer) -/

@[simp] theorem State.setResult_V (s : State) (r : StepResult) : (s.setResult r).V = s.V := rfl
@[simp] theorem State.setResult_I (s : State) (r : StepResult) : (s.setResult r).I = s.I := rfl
@[simp] theorem State.setResult_stack (s : State) (r : StepResult) : (s.setResult r).stack = s.stack := rfl
@[simp] theorem State.setResult_sp (s : State) (r : StepResult) : (s.setResult r).sp = s.sp := rfl
@[simp] theorem State.setResult_DT (s : State) (r : StepResult) : (s.setResult r).DT = s.DT := rfl
@[simp] theorem State.setResult_ST (s : State) (r : StepResult) : (s.setResult r).ST = s.ST := rfl
@[simp] theorem State.setResult_compat (s : State) (r : StepResult) : (s.setResult r).compat = s.compat := rfl
@[simp] theorem State.setResult_waiting (s : State) (r : StepResult) : (s.setResult r).waiting = s.waiting := rfl
@[simp] theorem State.setResult_waitReg (s : State) (r : StepResult) : (s.setResult r).waitReg = s.waitReg := rfl
@[simp] theorem State.setResult_keys (s : State) (r : StepResult) : (s.setResult r).keys = s.keys := rfl
@[simp] theorem State.setResult_acc (s : State) (r : StepResult) : (s.setResult r).acc = s.acc := rfl
@[simp] theorem State.setResult_beep (s : State) (r : StepResult) : (s.setResult r).beep = s.beep := rfl
@[simp] theorem State.setResult_fault (s : State) (r : StepResult) : (s.setResult r).fault = s.fault := rfl
@[simp] theorem State.setResult_mem (s : State) (r : StepResult) : (s.setResult r).mem = s.mem := rfl
@[simp] theorem State.setResult_pix (s : State) (r : StepResult) : (s.setResult r).pix = s.pix := rfl
@[simp] theorem State.setResult_fontOffset (s : State) (r : StepResult) : (s.setResult r).fontOffset = s.fontOffset := rfl
@[simp] theorem State.setResult_calls (s : State) (r : StepResult) : (s.setResult r).calls = s.calls := rfl
@[simp] theorem State.setResult_random (s : State) (r : StepResult) : (s.setResult r).random = s.random := rfl
@[simp] theorem State.setResult_freeCalls (s : State) (r : StepResult) : (s.setResult r).freeCalls = s.freeCalls := rfl
@[simp] theorem State.setResult_freeDraws (s : State) (r : StepResult) : (s.setResult r).freeDraws = s.freeDraws := rfl
@[simp] theorem State.setResult_reg (s : State) (r : StepResult) (q : Reg) : (s.setResult r).reg q = s.reg q := rfl
@[simp] theorem State.setResult_readByte (s : State) (r : StepResult) (addr : Nat) : (s.setResult r).readByte addr = s.readByte addr := rfl
@[simp] theorem State.setResult_pixel (s : State) (r : StepResult) (x' : Fin 64) (y' : Fin 32) : (s.setResult r).pixel x' y' = s.pixel x' y' := rfl
@[simp] theorem State.setResult_ip (s : State) (r : StepResult) : (s.setResult r).ip = s.ip := rfl

/-! ## `State.setIp` (R9: a write of `ip`) -/

@[simp] theorem State.setIp_V (s : State) (a : Word) : (s.setIp a).V = s.V := rfl
@[simp] theorem State.setIp_I (s : State) (a : Word) : (s.setIp a).I = s.I := rfl
@[simp] theorem State.setIp_sp (s : State) (a : Word) : (s.setIp a).sp = s.sp := rfl
@[simp] theorem State.setIp_DT (s : State) (a : Word) : (s.setIp a).DT = s.DT := rfl
@[simp] theorem State.setIp_ST (s : State) (a : Word) : (s.setIp a).ST = s.ST := rfl
@[simp] theorem State.setIp_compat (s : State) (a : Word) : (s.setIp a).compat = s.compat := rfl
@[simp] theorem State.setIp_waiting (s : State) (a : Word) : (s.setIp a).waiting = s.waiting := rfl
@[simp] theorem State.setIp_waitReg (s : State) (a : Word) : (s.setIp a).waitReg = s.waitReg := rfl
@[simp] theorem State.setIp_keys (s : State) (a : Word) : (s.setIp a).keys = s.keys := rfl
@[simp] theorem State.setIp_acc (s : State) (a : Word) : (s.setIp a).acc = s.acc := rfl
@[simp] theorem State.setIp_beep (s : State) (a : Word) : (s.setIp a).beep = s.beep := rfl
@[simp] theorem State.setIp_fault (s : State) (a : Word) : (s.setIp a).fault = s.fault := rfl
@[simp] theorem State.setIp_mem (s : State) (a : Word) : (s.setIp a).mem = s.mem := rfl
@[simp] theorem State.setIp_pix (s : State) (a : Word) : (s.setIp a).pix = s.pix := rfl
@[simp] theorem State.setIp_fontOffset (s : State) (a : Word) : (s.setIp a).fontOffset = s.fontOffset := rfl
@[simp] theorem State.setIp_result (s : State) (a : Word) : (s.setIp a).result = s.result := rfl
@[simp] theorem State.setIp_calls (s : State) (a : Word) : (s.setIp a).calls = s.calls := rfl
@[simp] theorem State.setIp_random (s : State) (a : Word) : (s.setIp a).random = s.random := rfl
@[simp] theorem State.setIp_freeCalls (s : State) (a : Word) : (s.setIp a).freeCalls = s.freeCalls := rfl
@[simp] theorem State.setIp_freeDraws (s : State) (a : Word) : (s.setIp a).freeDraws = s.freeDraws := rfl
@[simp] theorem State.setIp_reg (s : State) (a : Word) (q : Reg) : (s.setIp a).reg q = s.reg q := rfl
@[simp] theorem State.setIp_readByte (s : State) (a : Word) (addr : Nat) : (s.setIp a).readByte addr = s.readByte addr := rfl
@[simp] theorem State.setIp_pixel (s : State) (a : Word) (x' : Fin 64) (y' : Fin 32) : (s.setIp a).pixel x' y' = s.pixel x' y' := rfl

/-! ## `State.advanceIp` (R113: the fetch's advance) -/

@[simp] theorem State.advanceIp_V (s : State) : (s.advanceIp).V = s.V := rfl
@[simp] theorem State.advanceIp_I (s : State) : (s.advanceIp).I = s.I := rfl
@[simp] theorem State.advanceIp_sp (s : State) : (s.advanceIp).sp = s.sp := rfl
@[simp] theorem State.advanceIp_DT (s : State) : (s.advanceIp).DT = s.DT := rfl
@[simp] theorem State.advanceIp_ST (s : State) : (s.advanceIp).ST = s.ST := rfl
@[simp] theorem State.advanceIp_compat (s : State) : (s.advanceIp).compat = s.compat := rfl
@[simp] theorem State.advanceIp_waiting (s : State) : (s.advanceIp).waiting = s.waiting := rfl
@[simp] theorem State.advanceIp_waitReg (s : State) : (s.advanceIp).waitReg = s.waitReg := rfl
@[simp] theorem State.advanceIp_keys (s : State) : (s.advanceIp).keys = s.keys := rfl
@[simp] theorem State.advanceIp_acc (s : State) : (s.advanceIp).acc = s.acc := rfl
@[simp] theorem State.advanceIp_beep (s : State) : (s.advanceIp).beep = s.beep := rfl
@[simp] theorem State.advanceIp_fault (s : State) : (s.advanceIp).fault = s.fault := rfl
@[simp] theorem State.advanceIp_mem (s : State) : (s.advanceIp).mem = s.mem := rfl
@[simp] theorem State.advanceIp_pix (s : State) : (s.advanceIp).pix = s.pix := rfl
@[simp] theorem State.advanceIp_fontOffset (s : State) : (s.advanceIp).fontOffset = s.fontOffset := rfl
@[simp] theorem State.advanceIp_result (s : State) : (s.advanceIp).result = s.result := rfl
@[simp] theorem State.advanceIp_calls (s : State) : (s.advanceIp).calls = s.calls := rfl
@[simp] theorem State.advanceIp_random (s : State) : (s.advanceIp).random = s.random := rfl
@[simp] theorem State.advanceIp_freeCalls (s : State) : (s.advanceIp).freeCalls = s.freeCalls := rfl
@[simp] theorem State.advanceIp_freeDraws (s : State) : (s.advanceIp).freeDraws = s.freeDraws := rfl
@[simp] theorem State.advanceIp_reg (s : State) (q : Reg) : (s.advanceIp).reg q = s.reg q := rfl
@[simp] theorem State.advanceIp_readByte (s : State) (addr : Nat) : (s.advanceIp).readByte addr = s.readByte addr := rfl
@[simp] theorem State.advanceIp_pixel (s : State) (x' : Fin 64) (y' : Fin 32) : (s.advanceIp).pixel x' y' = s.pixel x' y' := rfl

/-! ## `State.skipIf` (R136: the skip action) -/

@[simp] theorem State.skipIf_V (s : State) (b : Bool) : (s.skipIf b).V = s.V := rfl
@[simp] theorem State.skipIf_I (s : State) (b : Bool) : (s.skipIf b).I = s.I := rfl
@[simp] theorem State.skipIf_sp (s : State) (b : Bool) : (s.skipIf b).sp = s.sp := rfl
@[simp] theorem State.skipIf_DT (s : State) (b : Bool) : (s.skipIf b).DT = s.DT := rfl
@[simp] theorem State.skipIf_ST (s : State) (b : Bool) : (s.skipIf b).ST = s.ST := rfl
@[simp] theorem State.skipIf_compat (s : State) (b : Bool) : (s.skipIf b).compat = s.compat := rfl
@[simp] theorem State.skipIf_waiting (s : State) (b : Bool) : (s.skipIf b).waiting = s.waiting := rfl
@[simp] theorem State.skipIf_waitReg (s : State) (b : Bool) : (s.skipIf b).waitReg = s.waitReg := rfl
@[simp] theorem State.skipIf_keys (s : State) (b : Bool) : (s.skipIf b).keys = s.keys := rfl
@[simp] theorem State.skipIf_acc (s : State) (b : Bool) : (s.skipIf b).acc = s.acc := rfl
@[simp] theorem State.skipIf_beep (s : State) (b : Bool) : (s.skipIf b).beep = s.beep := rfl
@[simp] theorem State.skipIf_fault (s : State) (b : Bool) : (s.skipIf b).fault = s.fault := rfl
@[simp] theorem State.skipIf_mem (s : State) (b : Bool) : (s.skipIf b).mem = s.mem := rfl
@[simp] theorem State.skipIf_pix (s : State) (b : Bool) : (s.skipIf b).pix = s.pix := rfl
@[simp] theorem State.skipIf_fontOffset (s : State) (b : Bool) : (s.skipIf b).fontOffset = s.fontOffset := rfl
@[simp] theorem State.skipIf_result (s : State) (b : Bool) : (s.skipIf b).result = s.result := rfl
@[simp] theorem State.skipIf_calls (s : State) (b : Bool) : (s.skipIf b).calls = s.calls := rfl
@[simp] theorem State.skipIf_random (s : State) (b : Bool) : (s.skipIf b).random = s.random := rfl
@[simp] theorem State.skipIf_freeCalls (s : State) (b : Bool) : (s.skipIf b).freeCalls = s.freeCalls := rfl
@[simp] theorem State.skipIf_freeDraws (s : State) (b : Bool) : (s.skipIf b).freeDraws = s.freeDraws := rfl
@[simp] theorem State.skipIf_reg (s : State) (b : Bool) (q : Reg) : (s.skipIf b).reg q = s.reg q := rfl
@[simp] theorem State.skipIf_readByte (s : State) (b : Bool) (addr : Nat) : (s.skipIf b).readByte addr = s.readByte addr := rfl
@[simp] theorem State.skipIf_pixel (s : State) (b : Bool) (x' : Fin 64) (y' : Fin 32) : (s.skipIf b).pixel x' y' = s.pixel x' y' := rfl

/-! ## `State.storeBytes` (R187, R188: a store) -/

@[simp] theorem State.storeBytes_V (s : State) (a : Nat) (bs : List Byte) : (s.storeBytes a bs).V = s.V := rfl
@[simp] theorem State.storeBytes_I (s : State) (a : Nat) (bs : List Byte) : (s.storeBytes a bs).I = s.I := rfl
@[simp] theorem State.storeBytes_stack (s : State) (a : Nat) (bs : List Byte) : (s.storeBytes a bs).stack = s.stack := rfl
@[simp] theorem State.storeBytes_sp (s : State) (a : Nat) (bs : List Byte) : (s.storeBytes a bs).sp = s.sp := rfl
@[simp] theorem State.storeBytes_DT (s : State) (a : Nat) (bs : List Byte) : (s.storeBytes a bs).DT = s.DT := rfl
@[simp] theorem State.storeBytes_ST (s : State) (a : Nat) (bs : List Byte) : (s.storeBytes a bs).ST = s.ST := rfl
@[simp] theorem State.storeBytes_compat (s : State) (a : Nat) (bs : List Byte) : (s.storeBytes a bs).compat = s.compat := rfl
@[simp] theorem State.storeBytes_waiting (s : State) (a : Nat) (bs : List Byte) : (s.storeBytes a bs).waiting = s.waiting := rfl
@[simp] theorem State.storeBytes_waitReg (s : State) (a : Nat) (bs : List Byte) : (s.storeBytes a bs).waitReg = s.waitReg := rfl
@[simp] theorem State.storeBytes_keys (s : State) (a : Nat) (bs : List Byte) : (s.storeBytes a bs).keys = s.keys := rfl
@[simp] theorem State.storeBytes_acc (s : State) (a : Nat) (bs : List Byte) : (s.storeBytes a bs).acc = s.acc := rfl
@[simp] theorem State.storeBytes_beep (s : State) (a : Nat) (bs : List Byte) : (s.storeBytes a bs).beep = s.beep := rfl
@[simp] theorem State.storeBytes_fault (s : State) (a : Nat) (bs : List Byte) : (s.storeBytes a bs).fault = s.fault := rfl
@[simp] theorem State.storeBytes_pix (s : State) (a : Nat) (bs : List Byte) : (s.storeBytes a bs).pix = s.pix := rfl
@[simp] theorem State.storeBytes_fontOffset (s : State) (a : Nat) (bs : List Byte) : (s.storeBytes a bs).fontOffset = s.fontOffset := rfl
@[simp] theorem State.storeBytes_result (s : State) (a : Nat) (bs : List Byte) : (s.storeBytes a bs).result = s.result := rfl
@[simp] theorem State.storeBytes_calls (s : State) (a : Nat) (bs : List Byte) : (s.storeBytes a bs).calls = s.calls := rfl
@[simp] theorem State.storeBytes_random (s : State) (a : Nat) (bs : List Byte) : (s.storeBytes a bs).random = s.random := rfl
@[simp] theorem State.storeBytes_freeCalls (s : State) (a : Nat) (bs : List Byte) : (s.storeBytes a bs).freeCalls = s.freeCalls := rfl
@[simp] theorem State.storeBytes_freeDraws (s : State) (a : Nat) (bs : List Byte) : (s.storeBytes a bs).freeDraws = s.freeDraws := rfl
@[simp] theorem State.storeBytes_reg (s : State) (a : Nat) (bs : List Byte) (q : Reg) : (s.storeBytes a bs).reg q = s.reg q := rfl
@[simp] theorem State.storeBytes_pixel (s : State) (a : Nat) (bs : List Byte) (x' : Fin 64) (y' : Fin 32) : (s.storeBytes a bs).pixel x' y' = s.pixel x' y' := rfl
@[simp] theorem State.storeBytes_ip (s : State) (a : Nat) (bs : List Byte) : (s.storeBytes a bs).ip = s.ip := rfl

/-! ## `State.raise` (R233: entry into a fatal error) -/

@[simp] theorem State.raise_V (s : State) (c : FatalError) : (s.raise c).V = s.V := rfl
@[simp] theorem State.raise_I (s : State) (c : FatalError) : (s.raise c).I = s.I := rfl
@[simp] theorem State.raise_stack (s : State) (c : FatalError) : (s.raise c).stack = s.stack := rfl
@[simp] theorem State.raise_sp (s : State) (c : FatalError) : (s.raise c).sp = s.sp := rfl
@[simp] theorem State.raise_DT (s : State) (c : FatalError) : (s.raise c).DT = s.DT := rfl
@[simp] theorem State.raise_ST (s : State) (c : FatalError) : (s.raise c).ST = s.ST := rfl
@[simp] theorem State.raise_compat (s : State) (c : FatalError) : (s.raise c).compat = s.compat := rfl
@[simp] theorem State.raise_waiting (s : State) (c : FatalError) : (s.raise c).waiting = s.waiting := rfl
@[simp] theorem State.raise_waitReg (s : State) (c : FatalError) : (s.raise c).waitReg = s.waitReg := rfl
@[simp] theorem State.raise_keys (s : State) (c : FatalError) : (s.raise c).keys = s.keys := rfl
@[simp] theorem State.raise_acc (s : State) (c : FatalError) : (s.raise c).acc = s.acc := rfl
@[simp] theorem State.raise_beep (s : State) (c : FatalError) : (s.raise c).beep = s.beep := rfl
@[simp] theorem State.raise_mem (s : State) (c : FatalError) : (s.raise c).mem = s.mem := rfl
@[simp] theorem State.raise_pix (s : State) (c : FatalError) : (s.raise c).pix = s.pix := rfl
@[simp] theorem State.raise_fontOffset (s : State) (c : FatalError) : (s.raise c).fontOffset = s.fontOffset := rfl
@[simp] theorem State.raise_calls (s : State) (c : FatalError) : (s.raise c).calls = s.calls := rfl
@[simp] theorem State.raise_random (s : State) (c : FatalError) : (s.raise c).random = s.random := rfl
@[simp] theorem State.raise_freeCalls (s : State) (c : FatalError) : (s.raise c).freeCalls = s.freeCalls := rfl
@[simp] theorem State.raise_freeDraws (s : State) (c : FatalError) : (s.raise c).freeDraws = s.freeDraws := rfl
@[simp] theorem State.raise_reg (s : State) (c : FatalError) (q : Reg) : (s.raise c).reg q = s.reg q := rfl
@[simp] theorem State.raise_readByte (s : State) (c : FatalError) (addr : Nat) : (s.raise c).readByte addr = s.readByte addr := rfl
@[simp] theorem State.raise_pixel (s : State) (c : FatalError) (x' : Fin 64) (y' : Fin 32) : (s.raise c).pixel x' y' = s.pixel x' y' := rfl
@[simp] theorem State.raise_ip (s : State) (c : FatalError) : (s.raise c).ip = s.ip := rfl

/-! ## `State.consumeRnd` (R50: a random byte is consumed) -/

@[simp] theorem State.consumeRnd_V (s : State) : (s.consumeRnd).V = s.V := rfl
@[simp] theorem State.consumeRnd_I (s : State) : (s.consumeRnd).I = s.I := rfl
@[simp] theorem State.consumeRnd_stack (s : State) : (s.consumeRnd).stack = s.stack := rfl
@[simp] theorem State.consumeRnd_sp (s : State) : (s.consumeRnd).sp = s.sp := rfl
@[simp] theorem State.consumeRnd_DT (s : State) : (s.consumeRnd).DT = s.DT := rfl
@[simp] theorem State.consumeRnd_ST (s : State) : (s.consumeRnd).ST = s.ST := rfl
@[simp] theorem State.consumeRnd_compat (s : State) : (s.consumeRnd).compat = s.compat := rfl
@[simp] theorem State.consumeRnd_waiting (s : State) : (s.consumeRnd).waiting = s.waiting := rfl
@[simp] theorem State.consumeRnd_waitReg (s : State) : (s.consumeRnd).waitReg = s.waitReg := rfl
@[simp] theorem State.consumeRnd_keys (s : State) : (s.consumeRnd).keys = s.keys := rfl
@[simp] theorem State.consumeRnd_acc (s : State) : (s.consumeRnd).acc = s.acc := rfl
@[simp] theorem State.consumeRnd_beep (s : State) : (s.consumeRnd).beep = s.beep := rfl
@[simp] theorem State.consumeRnd_fault (s : State) : (s.consumeRnd).fault = s.fault := rfl
@[simp] theorem State.consumeRnd_mem (s : State) : (s.consumeRnd).mem = s.mem := rfl
@[simp] theorem State.consumeRnd_pix (s : State) : (s.consumeRnd).pix = s.pix := rfl
@[simp] theorem State.consumeRnd_fontOffset (s : State) : (s.consumeRnd).fontOffset = s.fontOffset := rfl
@[simp] theorem State.consumeRnd_result (s : State) : (s.consumeRnd).result = s.result := rfl
@[simp] theorem State.consumeRnd_calls (s : State) : (s.consumeRnd).calls = s.calls := rfl
@[simp] theorem State.consumeRnd_freeCalls (s : State) : (s.consumeRnd).freeCalls = s.freeCalls := rfl
@[simp] theorem State.consumeRnd_reg (s : State) (q : Reg) : (s.consumeRnd).reg q = s.reg q := rfl
@[simp] theorem State.consumeRnd_readByte (s : State) (addr : Nat) : (s.consumeRnd).readByte addr = s.readByte addr := rfl
@[simp] theorem State.consumeRnd_pixel (s : State) (x' : Fin 64) (y' : Fin 32) : (s.consumeRnd).pixel x' y' = s.pixel x' y' := rfl
@[simp] theorem State.consumeRnd_ip (s : State) : (s.consumeRnd).ip = s.ip := rfl

/-! ## `State.setResultFlag` (R152: result, then flag) -/

@[simp] theorem State.setResultFlag_I (s : State) (x : Reg) (v : Byte) (b : Bool) : (s.setResultFlag x v b).I = s.I := rfl
@[simp] theorem State.setResultFlag_stack (s : State) (x : Reg) (v : Byte) (b : Bool) : (s.setResultFlag x v b).stack = s.stack := rfl
@[simp] theorem State.setResultFlag_sp (s : State) (x : Reg) (v : Byte) (b : Bool) : (s.setResultFlag x v b).sp = s.sp := rfl
@[simp] theorem State.setResultFlag_DT (s : State) (x : Reg) (v : Byte) (b : Bool) : (s.setResultFlag x v b).DT = s.DT := rfl
@[simp] theorem State.setResultFlag_ST (s : State) (x : Reg) (v : Byte) (b : Bool) : (s.setResultFlag x v b).ST = s.ST := rfl
@[simp] theorem State.setResultFlag_compat (s : State) (x : Reg) (v : Byte) (b : Bool) : (s.setResultFlag x v b).compat = s.compat := rfl
@[simp] theorem State.setResultFlag_waiting (s : State) (x : Reg) (v : Byte) (b : Bool) : (s.setResultFlag x v b).waiting = s.waiting := rfl
@[simp] theorem State.setResultFlag_waitReg (s : State) (x : Reg) (v : Byte) (b : Bool) : (s.setResultFlag x v b).waitReg = s.waitReg := rfl
@[simp] theorem State.setResultFlag_keys (s : State) (x : Reg) (v : Byte) (b : Bool) : (s.setResultFlag x v b).keys = s.keys := rfl
@[simp] theorem State.setResultFlag_acc (s : State) (x : Reg) (v : Byte) (b : Bool) : (s.setResultFlag x v b).acc = s.acc := rfl
@[simp] theorem State.setResultFlag_beep (s : State) (x : Reg) (v : Byte) (b : Bool) : (s.setResultFlag x v b).beep = s.beep := rfl
@[simp] theorem State.setResultFlag_fault (s : State) (x : Reg) (v : Byte) (b : Bool) : (s.setResultFlag x v b).fault = s.fault := rfl
@[simp] theorem State.setResultFlag_mem (s : State) (x : Reg) (v : Byte) (b : Bool) : (s.setResultFlag x v b).mem = s.mem := rfl
@[simp] theorem State.setResultFlag_pix (s : State) (x : Reg) (v : Byte) (b : Bool) : (s.setResultFlag x v b).pix = s.pix := rfl
@[simp] theorem State.setResultFlag_fontOffset (s : State) (x : Reg) (v : Byte) (b : Bool) : (s.setResultFlag x v b).fontOffset = s.fontOffset := rfl
@[simp] theorem State.setResultFlag_result (s : State) (x : Reg) (v : Byte) (b : Bool) : (s.setResultFlag x v b).result = s.result := rfl
@[simp] theorem State.setResultFlag_calls (s : State) (x : Reg) (v : Byte) (b : Bool) : (s.setResultFlag x v b).calls = s.calls := rfl
@[simp] theorem State.setResultFlag_random (s : State) (x : Reg) (v : Byte) (b : Bool) : (s.setResultFlag x v b).random = s.random := rfl
@[simp] theorem State.setResultFlag_freeCalls (s : State) (x : Reg) (v : Byte) (b : Bool) : (s.setResultFlag x v b).freeCalls = s.freeCalls := rfl
@[simp] theorem State.setResultFlag_freeDraws (s : State) (x : Reg) (v : Byte) (b : Bool) : (s.setResultFlag x v b).freeDraws = s.freeDraws := rfl
@[simp] theorem State.setResultFlag_readByte (s : State) (x : Reg) (v : Byte) (b : Bool) (addr : Nat) : (s.setResultFlag x v b).readByte addr = s.readByte addr := rfl
@[simp] theorem State.setResultFlag_pixel (s : State) (x : Reg) (v : Byte) (b : Bool) (x' : Fin 64) (y' : Fin 32) : (s.setResultFlag x v b).pixel x' y' = s.pixel x' y' := rfl
@[simp] theorem State.setResultFlag_ip (s : State) (x : Reg) (v : Byte) (b : Bool) : (s.setResultFlag x v b).ip = s.ip := rfl

/-! ## `State.sample` (R110, phase 1) -/

@[simp] theorem State.sample_V (s : State) (m : Word) : (s.sample m).V = s.V := rfl
@[simp] theorem State.sample_I (s : State) (m : Word) : (s.sample m).I = s.I := rfl
@[simp] theorem State.sample_stack (s : State) (m : Word) : (s.sample m).stack = s.stack := rfl
@[simp] theorem State.sample_sp (s : State) (m : Word) : (s.sample m).sp = s.sp := rfl
@[simp] theorem State.sample_DT (s : State) (m : Word) : (s.sample m).DT = s.DT := rfl
@[simp] theorem State.sample_ST (s : State) (m : Word) : (s.sample m).ST = s.ST := rfl
@[simp] theorem State.sample_compat (s : State) (m : Word) : (s.sample m).compat = s.compat := rfl
@[simp] theorem State.sample_waiting (s : State) (m : Word) : (s.sample m).waiting = s.waiting := rfl
@[simp] theorem State.sample_waitReg (s : State) (m : Word) : (s.sample m).waitReg = s.waitReg := rfl
@[simp] theorem State.sample_acc (s : State) (m : Word) : (s.sample m).acc = s.acc := rfl
@[simp] theorem State.sample_fault (s : State) (m : Word) : (s.sample m).fault = s.fault := rfl
@[simp] theorem State.sample_mem (s : State) (m : Word) : (s.sample m).mem = s.mem := rfl
@[simp] theorem State.sample_pix (s : State) (m : Word) : (s.sample m).pix = s.pix := rfl
@[simp] theorem State.sample_fontOffset (s : State) (m : Word) : (s.sample m).fontOffset = s.fontOffset := rfl
@[simp] theorem State.sample_result (s : State) (m : Word) : (s.sample m).result = s.result := rfl
@[simp] theorem State.sample_calls (s : State) (m : Word) : (s.sample m).calls = s.calls := rfl
@[simp] theorem State.sample_random (s : State) (m : Word) : (s.sample m).random = s.random := rfl
@[simp] theorem State.sample_freeCalls (s : State) (m : Word) : (s.sample m).freeCalls = s.freeCalls := rfl
@[simp] theorem State.sample_freeDraws (s : State) (m : Word) : (s.sample m).freeDraws = s.freeDraws := rfl
@[simp] theorem State.sample_reg (s : State) (m : Word) (q : Reg) : (s.sample m).reg q = s.reg q := rfl
@[simp] theorem State.sample_readByte (s : State) (m : Word) (addr : Nat) : (s.sample m).readByte addr = s.readByte addr := rfl
@[simp] theorem State.sample_pixel (s : State) (m : Word) (x' : Fin 64) (y' : Fin 32) : (s.sample m).pixel x' y' = s.pixel x' y' := rfl
@[simp] theorem State.sample_ip (s : State) (m : Word) : (s.sample m).ip = s.ip := rfl

/-! ## `State.endWait` (R111: the wait ends) -/

@[simp] theorem State.endWait_I (s : State) (k : Reg) : (s.endWait k).I = s.I := rfl
@[simp] theorem State.endWait_stack (s : State) (k : Reg) : (s.endWait k).stack = s.stack := rfl
@[simp] theorem State.endWait_sp (s : State) (k : Reg) : (s.endWait k).sp = s.sp := rfl
@[simp] theorem State.endWait_DT (s : State) (k : Reg) : (s.endWait k).DT = s.DT := rfl
@[simp] theorem State.endWait_ST (s : State) (k : Reg) : (s.endWait k).ST = s.ST := rfl
@[simp] theorem State.endWait_compat (s : State) (k : Reg) : (s.endWait k).compat = s.compat := rfl
@[simp] theorem State.endWait_waitReg (s : State) (k : Reg) : (s.endWait k).waitReg = s.waitReg := rfl
@[simp] theorem State.endWait_keys (s : State) (k : Reg) : (s.endWait k).keys = s.keys := rfl
@[simp] theorem State.endWait_acc (s : State) (k : Reg) : (s.endWait k).acc = s.acc := rfl
@[simp] theorem State.endWait_beep (s : State) (k : Reg) : (s.endWait k).beep = s.beep := rfl
@[simp] theorem State.endWait_fault (s : State) (k : Reg) : (s.endWait k).fault = s.fault := rfl
@[simp] theorem State.endWait_mem (s : State) (k : Reg) : (s.endWait k).mem = s.mem := rfl
@[simp] theorem State.endWait_pix (s : State) (k : Reg) : (s.endWait k).pix = s.pix := rfl
@[simp] theorem State.endWait_fontOffset (s : State) (k : Reg) : (s.endWait k).fontOffset = s.fontOffset := rfl
@[simp] theorem State.endWait_result (s : State) (k : Reg) : (s.endWait k).result = s.result := rfl
@[simp] theorem State.endWait_calls (s : State) (k : Reg) : (s.endWait k).calls = s.calls := rfl
@[simp] theorem State.endWait_random (s : State) (k : Reg) : (s.endWait k).random = s.random := rfl
@[simp] theorem State.endWait_freeCalls (s : State) (k : Reg) : (s.endWait k).freeCalls = s.freeCalls := rfl
@[simp] theorem State.endWait_freeDraws (s : State) (k : Reg) : (s.endWait k).freeDraws = s.freeDraws := rfl
@[simp] theorem State.endWait_readByte (s : State) (k : Reg) (addr : Nat) : (s.endWait k).readByte addr = s.readByte addr := rfl
@[simp] theorem State.endWait_pixel (s : State) (k : Reg) (x' : Fin 64) (y' : Fin 32) : (s.endWait k).pixel x' y' = s.pixel x' y' := rfl
@[simp] theorem State.endWait_ip (s : State) (k : Reg) : (s.endWait k).ip = s.ip := rfl

/-! ## `State.timerTick` (R240: the timer tick) -/

@[simp] theorem State.timerTick_V (s : State) (e : Nat) : (s.timerTick e).V = s.V := rfl
@[simp] theorem State.timerTick_I (s : State) (e : Nat) : (s.timerTick e).I = s.I := rfl
@[simp] theorem State.timerTick_stack (s : State) (e : Nat) : (s.timerTick e).stack = s.stack := rfl
@[simp] theorem State.timerTick_sp (s : State) (e : Nat) : (s.timerTick e).sp = s.sp := rfl
@[simp] theorem State.timerTick_compat (s : State) (e : Nat) : (s.timerTick e).compat = s.compat := rfl
@[simp] theorem State.timerTick_waiting (s : State) (e : Nat) : (s.timerTick e).waiting = s.waiting := rfl
@[simp] theorem State.timerTick_waitReg (s : State) (e : Nat) : (s.timerTick e).waitReg = s.waitReg := rfl
@[simp] theorem State.timerTick_keys (s : State) (e : Nat) : (s.timerTick e).keys = s.keys := rfl
@[simp] theorem State.timerTick_fault (s : State) (e : Nat) : (s.timerTick e).fault = s.fault := rfl
@[simp] theorem State.timerTick_mem (s : State) (e : Nat) : (s.timerTick e).mem = s.mem := rfl
@[simp] theorem State.timerTick_pix (s : State) (e : Nat) : (s.timerTick e).pix = s.pix := rfl
@[simp] theorem State.timerTick_fontOffset (s : State) (e : Nat) : (s.timerTick e).fontOffset = s.fontOffset := rfl
@[simp] theorem State.timerTick_result (s : State) (e : Nat) : (s.timerTick e).result = s.result := rfl
@[simp] theorem State.timerTick_calls (s : State) (e : Nat) : (s.timerTick e).calls = s.calls := rfl
@[simp] theorem State.timerTick_random (s : State) (e : Nat) : (s.timerTick e).random = s.random := rfl
@[simp] theorem State.timerTick_freeCalls (s : State) (e : Nat) : (s.timerTick e).freeCalls = s.freeCalls := rfl
@[simp] theorem State.timerTick_freeDraws (s : State) (e : Nat) : (s.timerTick e).freeDraws = s.freeDraws := rfl
@[simp] theorem State.timerTick_reg (s : State) (e : Nat) (q : Reg) : (s.timerTick e).reg q = s.reg q := rfl
@[simp] theorem State.timerTick_readByte (s : State) (e : Nat) (addr : Nat) : (s.timerTick e).readByte addr = s.readByte addr := rfl
@[simp] theorem State.timerTick_pixel (s : State) (e : Nat) (x' : Fin 64) (y' : Fin 32) : (s.timerTick e).pixel x' y' = s.pixel x' y' := rfl
@[simp] theorem State.timerTick_ip (s : State) (e : Nat) : (s.timerTick e).ip = s.ip := rfl

/-! ## `State.report` (R116, phase 6) -/

@[simp] theorem State.report_V (s : State) : (s.report).V = s.V := rfl
@[simp] theorem State.report_I (s : State) : (s.report).I = s.I := rfl
@[simp] theorem State.report_stack (s : State) : (s.report).stack = s.stack := rfl
@[simp] theorem State.report_sp (s : State) : (s.report).sp = s.sp := rfl
@[simp] theorem State.report_DT (s : State) : (s.report).DT = s.DT := rfl
@[simp] theorem State.report_ST (s : State) : (s.report).ST = s.ST := rfl
@[simp] theorem State.report_compat (s : State) : (s.report).compat = s.compat := rfl
@[simp] theorem State.report_waiting (s : State) : (s.report).waiting = s.waiting := rfl
@[simp] theorem State.report_waitReg (s : State) : (s.report).waitReg = s.waitReg := rfl
@[simp] theorem State.report_keys (s : State) : (s.report).keys = s.keys := rfl
@[simp] theorem State.report_acc (s : State) : (s.report).acc = s.acc := rfl
@[simp] theorem State.report_beep (s : State) : (s.report).beep = s.beep := rfl
@[simp] theorem State.report_fault (s : State) : (s.report).fault = s.fault := rfl
@[simp] theorem State.report_mem (s : State) : (s.report).mem = s.mem := rfl
@[simp] theorem State.report_pix (s : State) : (s.report).pix = s.pix := rfl
@[simp] theorem State.report_fontOffset (s : State) : (s.report).fontOffset = s.fontOffset := rfl
@[simp] theorem State.report_calls (s : State) : (s.report).calls = s.calls := rfl
@[simp] theorem State.report_random (s : State) : (s.report).random = s.random := rfl
@[simp] theorem State.report_freeCalls (s : State) : (s.report).freeCalls = s.freeCalls := rfl
@[simp] theorem State.report_freeDraws (s : State) : (s.report).freeDraws = s.freeDraws := rfl
@[simp] theorem State.report_reg (s : State) (q : Reg) : (s.report).reg q = s.reg q := rfl
@[simp] theorem State.report_readByte (s : State) (addr : Nat) : (s.report).readByte addr = s.readByte addr := rfl
@[simp] theorem State.report_pixel (s : State) (x' : Fin 64) (y' : Fin 32) : (s.report).pixel x' y' = s.pixel x' y' := rfl
@[simp] theorem State.report_ip (s : State) : (s.report).ip = s.ip := rfl

/-! ## The parts that are written -/

@[simp] theorem State.reg_setReg (s : State) (r q : Reg) (v : Byte) :
    (s.setReg r v).reg q = if r = q then v else s.reg q := by
  simp only [State.reg, State.setReg, Vector.getElem_set, Fin.ext_iff]

@[simp] theorem State.reg_setResultFlag (s : State) (x q : Reg) (v : Byte) (b : Bool) :
    (s.setResultFlag x v b).reg q = if flagReg = q then flagByte b else if x = q then v else s.reg q := by
  simp only [State.setResultFlag, State.reg_setReg]

@[simp] theorem State.setIndex_I (s : State) (a : Word) : (s.setIndex a).I = a := rfl

@[simp] theorem State.setDisplay_pix (s : State) (d : Display) : (s.setDisplay d).pix = d := rfl

@[simp] theorem State.setSp_sp (s : State) (k : Fin 255) : (s.setSp k).sp = k := rfl

@[simp] theorem State.setSp_ip (s : State) (k : Fin 255) : (s.setSp k).ip = s.stack[k.val] := rfl

@[simp] theorem State.setDelay_DT (s : State) (v : Byte) : (s.setDelay v).DT = v := rfl

@[simp] theorem State.setSound_ST (s : State) (v : Byte) : (s.setSound v).ST = v := rfl

@[simp] theorem State.startWait_waiting (s : State) (x : Reg) : (s.startWait x).waiting = true := rfl

@[simp] theorem State.startWait_waitReg (s : State) (x : Reg) : (s.startWait x).waitReg = x := rfl

@[simp] theorem State.setResult_result (s : State) (r : StepResult) : (s.setResult r).result = r := rfl

@[simp] theorem State.ip_setIp (s : State) (a : Word) : (s.setIp a).ip = a := by
  simp [State.ip, State.setIp]

@[simp] theorem State.ip_advanceIp (s : State) : s.advanceIp.ip = s.ip + 2 := by
  simp [State.advanceIp]

@[simp] theorem State.ip_skipIf (s : State) (b : Bool) : (s.skipIf b).ip = if b then s.ip + 2 else s.ip := by
  simp [State.skipIf]

theorem State.stack_setIp (s : State) (a : Word) (k : Fin 255) :
    (s.setIp a).stack[k.val] = if s.sp = k then a else s.stack[k.val] := by
  simp only [State.setIp, Vector.getElem_set, Fin.ext_iff]

@[simp] theorem State.raise_fault (s : State) (c : FatalError) : (s.raise c).fault = some c := rfl

@[simp] theorem State.raise_result (s : State) (c : FatalError) : (s.raise c).result = .err c := rfl

@[simp] theorem State.storeBytes_mem (s : State) (a : Nat) (bs : List Byte) :
    (s.storeBytes a bs).mem = s.mem.storeBytes a bs := rfl

@[simp] theorem State.consumeRnd_random (s : State) : s.consumeRnd.random = s.random.tail := rfl

@[simp] theorem State.sample_keys (s : State) (m : Word) : (s.sample m).keys = m := rfl

@[simp] theorem State.sample_beep (s : State) (m : Word) : (s.sample m).beep = false := rfl

@[simp] theorem State.endWait_waiting (s : State) (k : Reg) : (s.endWait k).waiting = false := rfl

@[simp] theorem State.reg_endWait (s : State) (k q : Reg) :
    (s.endWait k).reg q = if s.waitReg = q then BitVec.ofNat 8 k.val else s.reg q :=
  State.reg_setReg s s.waitReg q _

@[simp] theorem State.timerTick_acc (s : State) (e : Nat) :
    (s.timerTick e).acc = if tickFires (s.acc + e) then 0 else s.acc + e := rfl

@[simp] theorem State.timerTick_DT (s : State) (e : Nat) :
    (s.timerTick e).DT = if tickFires (s.acc + e) then countDown s.DT else s.DT := rfl

@[simp] theorem State.timerTick_ST (s : State) (e : Nat) :
    (s.timerTick e).ST = if tickFires (s.acc + e) then countDown s.ST else s.ST := rfl

@[simp] theorem State.report_result (s : State) :
    s.report.result = match s.fault with | none => .ok s.halted | some _ => s.result := rfl

end Sys2Proof.Machine
end

