-- ==== Sys2Proof/Laws/Ops.lean ====
section
/-! SUPPORT. One lemma for each shared operation that says everything it can do. -/

namespace Sys2Proof.Machine

/-! ## Checked accesses (R74) -/

theorem firstOutOfRange_none {base n : Nat} :
    firstOutOfRange base n = none ↔ n = 0 ∨ base + n ≤ Config.memSize := by
  simp only [firstOutOfRange, List.find?_eq_none, List.mem_map, List.mem_range, decide_eq_true_eq, not_le,
    forall_exists_index, and_imp]
  constructor
  · intro h
    by_cases hn : n = 0
    · exact .inl hn
    · have := h _ (n - 1) (by omega) rfl
      omega
  · rintro h _ k hk rfl
    omega

theorem firstOutOfRange_some {base n : Nat} (h : ¬ (n = 0 ∨ base + n ≤ Config.memSize)) :
    firstOutOfRange base n = some (max base Config.memSize) := by
  rw [firstOutOfRange, List.find?_eq_some_iff_getElem]
  refine ⟨by simp, max base Config.memSize - base, by simp; omega, ?_, ?_⟩
  · simp
  · intro j hj
    simp
    omega

/-- A checked access has its effect when every address exists, and else raises for the lowest that does not. -/
theorem checked_eq (s : State) (base n : Nat) (effect : State) :
    checked s base n effect =
      if n = 0 ∨ base + n ≤ Config.memSize then .next effect
      else .next (s.raise (.memoryFault (max base Config.memSize))) := by
  by_cases h : n = 0 ∨ base + n ≤ Config.memSize
  · rw [if_pos h, checked, firstOutOfRange_none.mpr h]
  · rw [if_neg h, checked, firstOutOfRange_some h]

/-! ## The registers of a bulk access (R188, R189) -/

theorem regsUpTo_length (x : Reg) : (regsUpTo x).length = x.val + 1 := by
  revert x
  decide

theorem regsUpTo_getElem (x : Reg) (k : Nat) (hk : k < (regsUpTo x).length) :
    ((regsUpTo x)[k]).val = k := by
  rw [regsUpTo_length] at hk
  have h : ∀ x : Reg, ∀ k : Fin 16, k.val < x.val + 1 → (regsUpTo x)[k.val]? = some k := by decide
  have hx := x.isLt
  have := h x ⟨k, by omega⟩ hk
  rw [List.getElem?_eq_some_iff] at this
  obtain ⟨_, he⟩ := this
  rw [he]

@[simp] theorem State.loadRegsFrom_readByte (s : State) (base a : Nat) (rs : List Reg) :
    (s.loadRegsFrom base rs).readByte a = s.readByte a := by
  induction rs generalizing s base with
  | nil => rfl
  | cons r rs ih => rw [State.loadRegsFrom, ih, State.setReg_readByte]

/-- A bulk load changes registers only. -/
theorem State.loadRegsFrom_rest (s : State) (base : Nat) (rs : List Reg) :
    { s.loadRegsFrom base rs with V := s.V } = s := by
  induction rs generalizing s base with
  | nil => rfl
  | cons r rs ih =>
    have h := ih (s.setReg r (s.readByte base)) (base + 1)
    rw [State.loadRegsFrom]
    generalize State.loadRegsFrom (s.setReg r (s.readByte base)) (base + 1) rs = t at h
    cases t
    cases s
    simp only [State.setReg, State.mk.injEq] at h ⊢
    exact ⟨trivial, h.2⟩

/-- A bulk load leaves every register alone that is not in its list. -/
theorem State.loadRegsFrom_reg_other (s : State) (base : Nat) {rs : List Reg} {q : Reg} (h : q ∉ rs) :
    (s.loadRegsFrom base rs).reg q = s.reg q := by
  induction rs generalizing s base with
  | nil => rfl
  | cons r rs ih =>
    rw [List.mem_cons, not_or] at h
    rw [State.loadRegsFrom, ih _ _ h.2, State.reg_setReg, if_neg (Ne.symm h.1)]

theorem regsUpTo_nodup : ∀ x : Reg, (regsUpTo x).Nodup := by decide

theorem mem_regsUpTo : ∀ {x k : Reg}, k ∈ regsUpTo x ↔ k ≤ x := by decide

/-- The `j`-th register of the list of a bulk load takes the `j`-th byte. -/
theorem State.loadRegsFrom_reg (s : State) (base : Nat) {rs : List Reg} (hn : rs.Nodup) (j : Nat) (h : j < rs.length) :
    (s.loadRegsFrom base rs).reg rs[j] = s.readByte (base + j) := by
  induction rs generalizing s base j with
  | nil => exact absurd h (Nat.not_lt_zero j)
  | cons r rs ih =>
    rw [List.nodup_cons] at hn
    cases j with
    | zero =>
      rw [State.loadRegsFrom, List.getElem_cons_zero, State.loadRegsFrom_reg_other _ _ hn.1, State.reg_setReg, if_pos rfl,
        Nat.add_zero]
    | succ j =>
      rw [State.loadRegsFrom, List.getElem_cons_succ, ih _ _ hn.2 _ (by simpa using h), State.setReg_readByte,
        Nat.add_right_comm, Nat.add_assoc]

/-! ## Construction (R60) -/

/-- `load` with no images and the default font offset, and nothing pending at the host, is `State.reset`. -/
theorem load_nothing_is_reset : State.reset.load [] [] 0 = .next State.reset := by
  rfl

/-- Memory after an admitted `load` is canonical. -/
theorem loadedMemory_wf {p f : List Byte} {o : Nat} (h : loadAdmitted p f o = true) :
    (loadedMemory p f o).wf := by
  simp only [loadAdmitted, Bool.and_eq_true, decide_eq_true_eq] at h
  obtain ⟨⟨hp, hf⟩, -⟩ := h
  refine Memory.storeBytes_wf (Memory.storeBytes_wf ⟨List.Pairwise.nil, by simp⟩ f hf) p ?_
  simp only [Config.memSize, Config.progBase] at hp ⊢
  omega

end Sys2Proof.Machine
end

