-- ==== Sys2Proof/Laws/Frames.lean ====
section
/-! SUPPORT. The frame of each shared operation: the parts of the state it may change, in the terms that the statements
use. -/

namespace Sys2Proof.Machine

/-- A frame may always be widened. -/
theorem OnlyChanges.mono {may may' : Part → Prop} {s t : State} (h : OnlyChanges may s t) (hm : ∀ p, may p → may' p) :
    OnlyChanges may' s t := fun p hp => h p fun hq => hp (hm p hq)

theorem setReg_frame (s : State) (r : Reg) (v : Byte) : OnlyListed [.reg r] s (s.setReg r v) := by
  intro p hp
  cases p <;> simp_all [Part.same]
  rename_i q
  intro hq
  exact absurd hq.symm hp

theorem setResultFlag_frame (s : State) (x : Reg) (v : Byte) (b : Bool) :
    OnlyListed [.reg x, .reg flagReg] s (s.setResultFlag x v b) := by
  intro p hp
  cases p <;> simp_all [Part.same]
  rename_i q
  rw [if_neg (Ne.symm hp.2), if_neg (Ne.symm hp.1)]

theorem setIndex_frame (s : State) (a : Word) : OnlyListed [.index] s (s.setIndex a) := by
  intro p hp
  cases p <;> simp_all [Part.same]

theorem setDisplay_frame (s : State) (d : Display) :
    OnlyChanges (fun p => ∃ x y, p = .pixel x y) s (s.setDisplay d) := by
  intro p hp
  cases p <;> simp_all [Part.same]

theorem setSp_frame (s : State) (k : Fin 255) : OnlyListed [.sp] s (s.setSp k) := by
  intro p hp
  cases p <;> simp_all [Part.same]

theorem setDelay_frame (s : State) (v : Byte) : OnlyListed [.delay] s (s.setDelay v) := by
  intro p hp
  cases p <;> simp_all [Part.same]

theorem setSound_frame (s : State) (v : Byte) : OnlyListed [.sound] s (s.setSound v) := by
  intro p hp
  cases p <;> simp_all [Part.same]

theorem startWait_frame (s : State) (x : Reg) : OnlyListed [.waiting, .waitReg] s (s.startWait x) := by
  intro p hp
  cases p <;> simp_all [Part.same]

theorem setResult_frame (s : State) (r : StepResult) : OnlyListed [.result] s (s.setResult r) := by
  intro p hp
  cases p <;> simp_all [Part.same]

theorem setIp_frame (s : State) (a : Word) : OnlyListed [.slot s.sp] s (s.setIp a) := by
  intro p hp
  cases p <;> simp_all [Part.same]
  rw [State.stack_setIp, if_neg (Ne.symm hp)]

theorem skipIf_frame (s : State) (b : Bool) : OnlyListed [.slot s.sp] s (s.skipIf b) := setIp_frame s _

theorem advanceIp_frame (s : State) : OnlyListed [.slot s.sp] s s.advanceIp := setIp_frame s _

theorem raise_frame (s : State) (c : FatalError) : OnlyListed [.fault, .result] s (s.raise c) := by
  intro p hp
  cases p <;> simp_all [Part.same]

theorem consumeRnd_frame (s : State) : OnlyListed [.random, .freeDraws] s s.consumeRnd := by
  intro p hp
  cases p <;> simp_all [Part.same]

theorem timerTick_frame (s : State) (e : Nat) : OnlyListed [.acc, .delay, .sound, .beep] s (s.timerTick e) := by
  intro p hp
  cases p <;> simp_all [Part.same]

theorem sample_frame (s : State) (m : Word) : OnlyListed [.keys, .beep] s (s.sample m) := by
  intro p hp
  cases p <;> simp_all [Part.same]

theorem report_frame (s : State) : OnlyListed [.result] s s.report := by
  intro p hp
  cases p <;> simp_all [Part.same]

/-- The end of a key-wait writes the waiting register and ends the wait. -/
theorem endWait_frame (s : State) (k : Reg) : OnlyListed [.reg s.waitReg, .waiting] s (s.endWait k) := by
  intro p hp
  cases p <;> simp_all [Part.same]
  rename_i q
  intro hq
  exact absurd hq.symm hp

/-- A store to addresses that exist leaves every byte outside them alone. -/
theorem storeBytes_frame (s : State) (hw : s.mem.wf) (a : Nat) (bs : List Byte) (ha : a + bs.length ≤ Config.memSize) :
    OnlyChanges (fun p => ∃ b, a ≤ b ∧ b < a + bs.length ∧ p = .byte b) s (s.storeBytes a bs) := by
  intro p hp
  cases p <;> simp_all [Part.same]
  rename_i b
  rw [State.readByte, State.storeBytes_mem, Memory.read_storeBytes hw bs ha, dif_neg, State.readByte]
  rintro ⟨h1, h2⟩
  have := hp h1
  omega

end Sys2Proof.Machine
end

