-- ==== Sys2Proof/Laws/Exec.lean ====
section
/-! SUPPORT. Said once: which parts of the state each instruction may change (its footprint), and that `exec` changes
nothing else. The rules of the whole machine follow from it. -/

namespace Sys2Proof.Machine

/-- The instructions that may raise a fatal error (R230). -/
def mayRaise : Instr → Prop
  | .call _ | .ldB _ | .storeRegs _ | .loadRegs _ | .drw _ _ _ => True
  | _ => False

/-- The instructions that replace or add to `ip` (R37). -/
def writesIp : Instr → Prop
  | .jp _ | .jpV0 _ | .call _ | .seImm _ _ | .sneImm _ _ | .seReg _ _ | .sneReg _ _ | .skp _ | .sknp _ => True
  | _ => False

/-- The parts that the instruction may change when it is executed in the state `s`. -/
def footprint (i : Instr) (s : State) : Part → Prop
  | .reg r => mayWriteReg r i = true
  | .index => (∃ nnn, i = .ldI nnn) ∨ ∃ x, i = .addI x ∨ i = .ldF x ∨ i = .storeRegs x ∨ i = .loadRegs x
  | .slot k => s.sp ≤ k ∧ writesIp i
  | .sp => i = .ret ∨ ∃ nnn, i = .call nnn
  | .delay => ∃ x, i = .ldDTVx x
  | .sound => ∃ x, i = .ldSTVx x
  | .waiting | .waitReg => ∃ x, i = .ldVxK x
  | .fault | .result => mayRaise i
  | .byte _ => ∃ x, i = .ldB x ∨ i = .storeRegs x
  | .pixel _ _ => i = .cls ∨ ∃ x y n, i = .drw x y n
  | .random | .freeDraws => ∃ x nn, i = .rnd x nn
  | .compat | .keys | .acc | .beep | .fontOffset | .calls | .freeCalls => False

/-- A checked access changes what its effect changes, or raises. -/
theorem checked_frame {may : Part → Prop} {s t effect : State} {base n : Nat} (h : checked s base n effect = .next t)
    (heff : OnlyChanges may s effect) (hf : may .fault) (hr : may .result) : OnlyChanges may s t := by
  rw [checked_eq] at h
  split_ifs at h
  · cases h
    exact heff
  · cases h
    refine (raise_frame s _).mono fun p hp => ?_
    simp only [List.mem_cons, List.not_mem_nil, or_false] at hp
    rcases hp with rfl | rfl
    exacts [hf, hr]

/-- A frame of listed parts lies inside a footprint that has each of them. -/
theorem OnlyListed.toFootprint {ps : List Part} {i : Instr} {s t : State} (h : OnlyListed ps s t)
    (hp : ∀ p ∈ ps, footprint i s p) : OnlyChanges (footprint i s) s t := h.mono hp

/-- Nothing changed is inside every frame. -/
theorem OnlyChanges.refl (may : Part → Prop) (s : State) : OnlyChanges may s s := fun p _ => by cases p <;> rfl

theorem loadRegsFrom_frame (s : State) (x : Reg) (base : Nat) :
    OnlyChanges (fun p => ∃ k : Reg, k ≤ x ∧ p = .reg k) s (s.loadRegsFrom base (regsUpTo x)) := by
  intro p hp
  have hrest := State.loadRegsFrom_rest s base (regsUpTo x)
  cases p with
  | reg r =>
    exact State.loadRegsFrom_reg_other s base fun h => hp ⟨r, mem_regsUpTo.mp h, rfl⟩
  | byte a => exact State.loadRegsFrom_readByte s base a (regsUpTo x)
  | _ =>
    generalize s.loadRegsFrom base (regsUpTo x) = t at *
    obtain ⟨⟩ := s
    obtain ⟨⟩ := t
    simp only [State.mk.injEq, true_and] at hrest
    simp only [Part.same, State.pixel, hrest]

theorem storeBytes_changes_bytes (s : State) (a : Nat) (bs : List Byte) :
    OnlyChanges (fun p => ∃ b, p = .byte b) s (s.storeBytes a bs) := by
  intro p hp
  cases p <;> simp_all [Part.same]

theorem setIndex_same (s : State) (a : Word) {p : Part} (hp : p ≠ .index) : Part.same s (s.setIndex a) p :=
  setIndex_frame s a p (by simpa using hp)

/-- Two changes in a row stay inside their common frame. -/
theorem OnlyChanges.trans {may : Part → Prop} {s t u : State} (h : OnlyChanges may s t) (h' : OnlyChanges may t u) :
    OnlyChanges may s u := by
  intro p hp
  have h1 := h p hp
  have h2 := h' p hp
  cases p <;> exact h2.trans h1

/-- `exec` changes nothing outside the instruction's footprint. -/
theorem exec_footprint {i : Instr} {s t : State} (h : exec i s = .next t) : OnlyChanges (footprint i s) s t := by
  cases i
  case cls =>
    cases h
    exact (setDisplay_frame s _).mono fun p ⟨x, y, hp⟩ => hp ▸ .inl rfl
  case ret =>
    cases h
    exact OnlyListed.toFootprint (setSp_frame _ _) (by simp [footprint])
  case sys | unrecognized =>
    cases h
    exact .refl _ _
  case jp | jpV0 | seImm | sneImm | seReg | sneReg | skp | sknp =>
    cases h
    exact OnlyListed.toFootprint (setIp_frame _ _) (by simp [footprint, writesIp])
  case call nnn =>
    simp only [exec, execCall] at h
    split_ifs at h
    · cases h
      refine OnlyChanges.trans (OnlyListed.toFootprint (setSp_frame _ _) (by simp [footprint]))
        ((setIp_frame _ _).mono ?_)
      simp only [List.mem_cons, List.not_mem_nil, or_false, forall_eq]
      exact ⟨Nat.le_succ _, trivial⟩
    · cases h
      exact OnlyListed.toFootprint (raise_frame _ _) (by simp [footprint, mayRaise])
  case ldImm | addImm | ldReg | orReg | andReg | xorReg | ldVxDT =>
    cases h
    exact OnlyListed.toFootprint (setReg_frame _ _ _) (by simp [footprint, mayWriteReg])
  case addReg | subReg | shr | subn | shl =>
    cases h
    exact OnlyListed.toFootprint (setResultFlag_frame _ _ _ _) (by simp [footprint, mayWriteReg])
  case ldI | addI | ldF =>
    cases h
    exact OnlyListed.toFootprint (setIndex_frame _ _) (by simp [footprint])
  case rnd x nn =>
    cases h
    refine OnlyChanges.trans ((consumeRnd_frame s).mono ?_) ((setReg_frame _ _ _).mono ?_) <;>
      simp [footprint, mayWriteReg]
  case ldVxK x =>
    cases h
    exact OnlyListed.toFootprint (startWait_frame _ _) (by simp [footprint])
  case ldDTVx x =>
    cases h
    exact OnlyListed.toFootprint (setDelay_frame _ _) (by simp [footprint])
  case ldSTVx x =>
    cases h
    exact OnlyListed.toFootprint (setSound_frame _ _) (by simp [footprint])
  case ldB x =>
    exact checked_frame h ((storeBytes_changes_bytes _ _ _).mono fun p ⟨b, hp⟩ => hp ▸ ⟨x, .inl rfl⟩) trivial trivial
  case storeRegs x =>
    refine checked_frame h (OnlyChanges.trans ((storeBytes_changes_bytes _ _ _).mono fun p ⟨b, hp⟩ => ?_)
      ((setIndex_frame _ _).mono ?_)) trivial trivial
    · exact hp ▸ ⟨x, .inr rfl⟩
    · simp [footprint]
  case loadRegs x =>
    refine checked_frame h (OnlyChanges.trans ((loadRegsFrom_frame _ _ _).mono fun p hp => ?_)
      ((setIndex_frame _ _).mono ?_)) trivial trivial
    · obtain ⟨k, hk, rfl⟩ := hp
      simpa [footprint, mayWriteReg] using hk
    · simp [footprint]
  case drw x y n =>
    refine checked_frame h (OnlyChanges.trans ((setDisplay_frame _ _).mono fun p ⟨px, py, hp⟩ => ?_)
      ((setReg_frame _ _ _).mono ?_)) trivial trivial
    · exact hp ▸ .inr ⟨x, y, n, rfl⟩
    · simp [footprint, mayWriteReg]

/-- What a checked access leaves: canonical memory, and the fault that it answered, if any. -/
theorem checked_keeps {s t effect : State} {base n : Nat} (hm : s.mem.wf) (h : checked s base n effect = .next t)
    (he : n = 0 ∨ base + n ≤ Config.memSize → effect.mem.wf ∧ effect.fault = none) :
    t.mem.wf ∧ t.faultConsistent := by
  rw [checked_eq] at h
  by_cases h1 : n = 0 ∨ base + n ≤ Config.memSize
  · rw [if_pos h1] at h
    cases h
    exact ⟨(he h1).1, by simp only [State.faultConsistent, (he h1).2]⟩
  · rw [if_neg h1] at h
    cases h
    exact ⟨hm, rfl, Nat.le_max_right _ _⟩

/-- From no recorded fault, an access that raises has answered the cause it records. -/
theorem checked_answers_cause {s t effect : State} {base n : Nat} {c : FatalError} (h : checked s base n effect = .next t)
    (he : effect.fault = none) (hc : t.fault = some c) : t.result = .err c := by
  rw [checked_eq] at h
  split_ifs at h <;> cases h
  · exact absurd (he.symm.trans hc) nofun
  · cases hc
    rfl

/-- From no recorded fault, an instruction that raises has answered the cause it records (R233). -/
theorem exec_answers_cause {i : Instr} {s t : State} {c : FatalError} (hf : s.fault = none) (h : exec i s = .next t)
    (hc : t.fault = some c) : t.result = .err c := by
  have no : ∀ {P : Prop}, s.fault = some c → P := fun h' => absurd (hf.symm.trans h') nofun
  cases i
  case call nnn =>
    simp only [exec, execCall] at h
    split_ifs at h <;> cases h
    · exact no hc
    · cases hc
      rfl
  case loadRegs x =>
    exact checked_answers_cause h
      ((congrArg State.fault (State.loadRegsFrom_rest s s.I.toNat (regsUpTo x))).trans hf) hc
  case ldB | storeRegs | drw => exact checked_answers_cause h hf hc
  all_goals
    cases h
    exact no hc

/-- From canonical memory and no recorded fault, every instruction leaves canonical memory and, at most, a true fault. -/
theorem exec_keeps {i : Instr} {s t : State} (hm : s.mem.wf) (hf : s.fault = none) (h : exec i s = .next t) :
    t.mem.wf ∧ t.faultConsistent := by
  cases i
  case call nnn =>
    have hlt := s.sp.isLt
    simp only [exec, execCall] at h
    split_ifs at h with hsp
    · cases h
      exact ⟨hm, by simp [State.faultConsistent, hf]⟩
    · cases h
      refine ⟨hm, rfl, ?_⟩
      change ¬ s.sp.val < 254 at hsp
      change s.sp.val = 254
      omega
  case ldB x => exact checked_keeps hm h fun h1 => ⟨Memory.storeBytes_wf hm _ (by simp [bcdDigits]; omega), hf⟩
  case storeRegs x =>
    exact checked_keeps hm h fun h1 => ⟨Memory.storeBytes_wf hm _ (by simp [regsUpTo_length]; omega), hf⟩
  case loadRegs x =>
    refine checked_keeps hm h fun _ => ?_
    have hr := State.loadRegsFrom_rest s s.I.toNat (regsUpTo x)
    exact ⟨congrArg State.mem hr ▸ hm, (congrArg State.fault hr).trans hf⟩
  case drw => exact checked_keeps hm h fun _ => ⟨hm, hf⟩
  all_goals
    cases h
    exact ⟨hm, by simp [State.faultConsistent, hf]⟩

end Sys2Proof.Machine
end

