-- ==== Sys2Proof/Laws/PerInstr.lean ====
section
/-! SUPPORT. For every instruction, by constructor: the decoder reads the encoder's word back (R90 to R95). Words and their
fields are compared as numbers, where a field is a quotient and a remainder. -/

namespace Sys2Proof

/-! ## Words and fields as numbers -/

theorem append_toNat {n m : Nat} (a : BitVec n) (b : BitVec m) : (a ++ b).toNat = a.toNat * 2 ^ m + b.toNat := by
  rw [BitVec.toNat_append, ← Nat.shiftLeft_add_eq_or_of_lt b.isLt, Nat.shiftLeft_eq]

theorem formatRRN_toNat (f : BitVec 4) (x y n : Fin 16) :
    (formatRRN f x y n).toNat = ((f.toNat * 16 + x.val) * 16 + y.val) * 16 + n.val := by
  rw [formatRRN, append_toNat, append_toNat, append_toNat]
  rfl

theorem formatRI_toNat (f : BitVec 4) (x : Reg) (nn : Byte) :
    (formatRI f x nn).toNat = (f.toNat * 16 + x.val) * 256 + nn.toNat := by
  rw [formatRI, append_toNat, append_toNat]
  rfl

theorem formatA12_toNat (f : BitVec 4) (nnn : Addr12) : (formatA12 f nnn).toNat = f.toNat * 4096 + nnn.toNat := by
  rw [formatA12, append_toNat]
  rfl

theorem fieldF_toNat (w : Word) : (fieldF w).toNat = w.toNat / 4096 := by
  have := w.isLt
  rw [fieldF, BitVec.extractLsb_toNat, Nat.shiftRight_eq_div_pow]
  omega

theorem fieldX_val (w : Word) : (fieldX w).val = w.toNat / 256 % 16 := by
  have : (fieldX w).val = (w.extractLsb 11 8).toNat := rfl
  rw [this, BitVec.extractLsb_toNat, Nat.shiftRight_eq_div_pow]

theorem fieldY_val (w : Word) : (fieldY w).val = w.toNat / 16 % 16 := by
  have : (fieldY w).val = (w.extractLsb 7 4).toNat := rfl
  rw [this, BitVec.extractLsb_toNat, Nat.shiftRight_eq_div_pow]

theorem fieldN_val (w : Word) : (fieldN w).val = w.toNat % 16 := by
  have : (fieldN w).val = (w.extractLsb 3 0).toNat := rfl
  rw [this, BitVec.extractLsb_toNat, Nat.shiftRight_zero]

theorem fieldNN_toNat (w : Word) : (fieldNN w).toNat = w.toNat % 256 := by
  rw [fieldNN, BitVec.extractLsb_toNat, Nat.shiftRight_zero]

theorem fieldNNN_toNat (w : Word) : (fieldNNN w).toNat = w.toNat % 4096 := by
  rw [fieldNNN, BitVec.extractLsb_toNat, Nat.shiftRight_zero]

/-! ## The fields of the encoder's words -/

section fields

variable (f : BitVec 4) (x y n : Fin 16) (nn : Byte) (nnn : Addr12)

@[simp] theorem fieldF_formatRRN : fieldF (formatRRN f x y n) = f := by
  apply BitVec.eq_of_toNat_eq
  rw [fieldF_toNat, formatRRN_toNat]
  omega

@[simp] theorem fieldX_formatRRN : fieldX (formatRRN f x y n) = x := by
  apply Fin.ext
  rw [fieldX_val, formatRRN_toNat]
  omega

@[simp] theorem fieldY_formatRRN : fieldY (formatRRN f x y n) = y := by
  apply Fin.ext
  rw [fieldY_val, formatRRN_toNat]
  omega

@[simp] theorem fieldN_formatRRN : fieldN (formatRRN f x y n) = n := by
  apply Fin.ext
  rw [fieldN_val, formatRRN_toNat]
  omega

@[simp] theorem fieldF_formatRI : fieldF (formatRI f x nn) = f := by
  apply BitVec.eq_of_toNat_eq
  rw [fieldF_toNat, formatRI_toNat]
  omega

@[simp] theorem fieldX_formatRI : fieldX (formatRI f x nn) = x := by
  apply Fin.ext
  rw [fieldX_val, formatRI_toNat]
  omega

@[simp] theorem fieldNN_formatRI : fieldNN (formatRI f x nn) = nn := by
  apply BitVec.eq_of_toNat_eq
  rw [fieldNN_toNat, formatRI_toNat]
  omega

@[simp] theorem fieldF_formatA12 : fieldF (formatA12 f nnn) = f := by
  apply BitVec.eq_of_toNat_eq
  rw [fieldF_toNat, formatA12_toNat]
  omega

@[simp] theorem fieldNNN_formatA12 : fieldNNN (formatA12 f nnn) = nnn := by
  apply BitVec.eq_of_toNat_eq
  rw [fieldNNN_toNat, formatA12_toNat]
  omega

@[simp] theorem fieldNN_formatA12 : fieldNN (formatA12 f nnn) = nnn.extractLsb 7 0 := by
  apply BitVec.eq_of_toNat_eq
  rw [fieldNN_toNat, formatA12_toNat, BitVec.extractLsb_toNat]
  omega

end fields

/-- A word is the one its two bytes make (R72). -/
theorem wordOfBytes_bytesOfWord (w : Word) : wordOfBytes (w.extractLsb 15 8) (w.extractLsb 7 0) = w := by
  apply BitVec.eq_of_toNat_eq
  rw [wordOfBytes, append_toNat, BitVec.extractLsb_toNat, BitVec.extractLsb_toNat, Nat.shiftRight_eq_div_pow]
  have := w.isLt
  omega

/-! ## The words no row selects (R96) -/

/-- R96's list in the numbers that the decoder dispatches on. -/
theorem unrecognizedWord_iff (w : Word) : unrecognizedWord w = true ↔
    ((fieldF w).toNat = 5 ∨ (fieldF w).toNat = 9) ∧ (fieldN w).val ≠ 0
    ∨ (fieldF w).toNat = 8 ∧ (fieldN w).val ∈ [8, 9, 10, 11, 12, 13, 15]
    ∨ (fieldF w).toNat = 14 ∧ (fieldNN w).toNat ∉ [0x9E, 0xA1]
    ∨ (fieldF w).toNat = 15 ∧ (fieldNN w).toNat ∉ [0x07, 0x0A, 0x15, 0x18, 0x1E, 0x29, 0x33, 0x55, 0x65] := by
  have hn : (fieldN w).val = (w.extractLsb 3 0).toNat := rfl
  simp only [hn, unrecognizedWord, fieldF, fieldNN, Bool.or_eq_true, Bool.and_eq_true, beq_iff_eq, bne_iff_ne, ne_eq,
    Bool.not_eq_true', List.contains_eq_mem, decide_eq_true_eq, decide_eq_false_iff_not, List.mem_cons, List.not_mem_nil,
    or_false, ← BitVec.toNat_inj, BitVec.toNat_ofNat, or_assoc]

/-- A word of R96's list decodes to itself, unrecognized. -/
theorem unrecognizedWord_decode {w : Word} (h : unrecognizedWord w = true) : decodeWord w = .unrecognized w := by
  rw [unrecognizedWord_iff] at h
  rcases h with ⟨h5 | h9, hn⟩ | ⟨h8, hn⟩ | ⟨hE, hn⟩ | ⟨hF, hn⟩
  · simp only [decodeWord, h5]
    exact if_neg fun hz => hn (congrArg Fin.val hz)
  · simp only [decodeWord, h9]
    exact if_neg fun hz => hn (congrArg Fin.val hz)
  · simp only [decodeWord, h8, decodeFamily8]
    simp only [List.mem_cons, List.not_mem_nil, or_false] at hn
    rcases hn with hn | hn | hn | hn | hn | hn | hn <;> simp only [hn]
  · simp only [decodeWord, hE, decodeFamilyE]
    simp only [List.mem_cons, List.not_mem_nil, or_false, not_or] at hn
    split <;> simp_all
  · have hd : decodeWord w = decodeFamilyF w := by simp only [decodeWord, hF]
    rw [hd, decodeFamilyF]
    simp only [List.mem_cons, List.not_mem_nil, or_false, not_or] at hn
    split <;> simp_all

namespace Laws.RoundTrip

/-- The decoder reads back what the encoder wrote. -/
def Statement (i : Instr) : Prop := i.wellFormed = true → decodeWord (encodeWord i) = i

theorem cls : Statement .cls := fun _ => by decide
theorem ret : Statement .ret := fun _ => by decide

theorem sys (nnn : Addr12) : Statement (.sys nnn) := by
  intro h
  simp only [Instr.wellFormed, sysAddress, Bool.and_eq_true, bne_iff_ne, ne_eq] at h
  have hd : decodeWord (encodeWord (.sys nnn)) = decodeFamily0 (formatA12 0 nnn) := by simp [encodeWord, decodeWord]
  rw [hd, decodeFamily0, fieldNN_formatA12, fieldNNN_formatA12]
  split
  · rename_i he
    exact absurd (BitVec.eq_of_toNat_eq he) h.1
  · rename_i he
    exact absurd (BitVec.eq_of_toNat_eq he) h.2
  · rfl

theorem jp (nnn : Addr12) : Statement (.jp nnn) := fun _ => by simp [encodeWord, decodeWord]
theorem call (nnn : Addr12) : Statement (.call nnn) := fun _ => by simp [encodeWord, decodeWord]
theorem seImm (x : Reg) (nn : Byte) : Statement (.seImm x nn) := fun _ => by simp [encodeWord, decodeWord]
theorem sneImm (x : Reg) (nn : Byte) : Statement (.sneImm x nn) := fun _ => by simp [encodeWord, decodeWord]
theorem seReg (x y : Reg) : Statement (.seReg x y) := fun _ => by simp [encodeWord, decodeWord]
theorem ldImm (x : Reg) (nn : Byte) : Statement (.ldImm x nn) := fun _ => by simp [encodeWord, decodeWord]
theorem addImm (x : Reg) (nn : Byte) : Statement (.addImm x nn) := fun _ => by simp [encodeWord, decodeWord]
theorem ldReg (x y : Reg) : Statement (.ldReg x y) := fun _ => by simp [encodeWord, decodeWord, decodeFamily8]
theorem orReg (x y : Reg) : Statement (.orReg x y) := fun _ => by simp [encodeWord, decodeWord, decodeFamily8]
theorem andReg (x y : Reg) : Statement (.andReg x y) := fun _ => by simp [encodeWord, decodeWord, decodeFamily8]
theorem xorReg (x y : Reg) : Statement (.xorReg x y) := fun _ => by simp [encodeWord, decodeWord, decodeFamily8]
theorem addReg (x y : Reg) : Statement (.addReg x y) := fun _ => by simp [encodeWord, decodeWord, decodeFamily8]
theorem subReg (x y : Reg) : Statement (.subReg x y) := fun _ => by simp [encodeWord, decodeWord, decodeFamily8]
theorem shr (x y : Reg) : Statement (.shr x y) := fun _ => by simp [encodeWord, decodeWord, decodeFamily8]
theorem subn (x y : Reg) : Statement (.subn x y) := fun _ => by simp [encodeWord, decodeWord, decodeFamily8]
theorem shl (x y : Reg) : Statement (.shl x y) := fun _ => by simp [encodeWord, decodeWord, decodeFamily8]
theorem sneReg (x y : Reg) : Statement (.sneReg x y) := fun _ => by simp [encodeWord, decodeWord]
theorem ldI (nnn : Addr12) : Statement (.ldI nnn) := fun _ => by simp [encodeWord, decodeWord]
theorem jpV0 (nnn : Addr12) : Statement (.jpV0 nnn) := fun _ => by simp [encodeWord, decodeWord]
theorem rnd (x : Reg) (nn : Byte) : Statement (.rnd x nn) := fun _ => by simp [encodeWord, decodeWord]
theorem drw (x y : Reg) (n : Fin 16) : Statement (.drw x y n) := fun _ => by simp [encodeWord, decodeWord]
theorem skp (x : Reg) : Statement (.skp x) := fun _ => by simp [encodeWord, decodeWord, decodeFamilyE]
theorem sknp (x : Reg) : Statement (.sknp x) := fun _ => by simp [encodeWord, decodeWord, decodeFamilyE]
theorem ldVxDT (x : Reg) : Statement (.ldVxDT x) := fun _ => by simp [encodeWord, decodeWord, decodeFamilyF]
theorem ldVxK (x : Reg) : Statement (.ldVxK x) := fun _ => by simp [encodeWord, decodeWord, decodeFamilyF]
theorem ldDTVx (x : Reg) : Statement (.ldDTVx x) := fun _ => by simp [encodeWord, decodeWord, decodeFamilyF]
theorem ldSTVx (x : Reg) : Statement (.ldSTVx x) := fun _ => by simp [encodeWord, decodeWord, decodeFamilyF]
theorem addI (x : Reg) : Statement (.addI x) := fun _ => by simp [encodeWord, decodeWord, decodeFamilyF]
theorem ldF (x : Reg) : Statement (.ldF x) := fun _ => by simp [encodeWord, decodeWord, decodeFamilyF]
theorem ldB (x : Reg) : Statement (.ldB x) := fun _ => by simp [encodeWord, decodeWord, decodeFamilyF]
theorem storeRegs (x : Reg) : Statement (.storeRegs x) := fun _ => by simp [encodeWord, decodeWord, decodeFamilyF]
theorem loadRegs (x : Reg) : Statement (.loadRegs x) := fun _ => by simp [encodeWord, decodeWord, decodeFamilyF]

theorem unrecognized (w : Word) : Statement (.unrecognized w) := fun h => unrecognizedWord_decode h

end Laws.RoundTrip

end Sys2Proof
end

