-- ==== Sys2Proof/Laws/Masks.lean ====
section
/-! SUPPORT. What the masks of the opcode map (R95) leave of a word, as numbers. -/

namespace Sys2Proof

theorem wordOfBytes_toNat (a b : Byte) : (wordOfBytes a b).toNat = a.toNat * 256 + b.toNat := by
  rw [wordOfBytes, append_toNat]
  rfl

theorem wordOfBytes_and (a b c d : Byte) : wordOfBytes a b &&& wordOfBytes c d = wordOfBytes (a &&& c) (b &&& d) := by
  apply BitVec.eq_of_toNat_eq
  exact congrArg BitVec.toNat (BitVec.and_append (x₁ := a) (x₂ := c) (y₁ := b) (y₂ := d))

/-- A mask made of two bytes acts on the two bytes of the word. -/
theorem and_mask_toNat (w : Word) (hi lo : Byte) {f g : Nat → Nat}
    (hf : ∀ v : Byte, (v &&& hi).toNat = f v.toNat) (hg : ∀ v : Byte, (v &&& lo).toNat = g v.toNat) :
    (w &&& wordOfBytes hi lo).toNat = f (w.toNat / 256) * 256 + g (w.toNat % 256) := by
  have hw := w.isLt
  conv_lhs => rw [← wordOfBytes_bytesOfWord w]
  rw [wordOfBytes_and, wordOfBytes_toNat, hf, hg, BitVec.extractLsb_toNat, BitVec.extractLsb_toNat,
    Nat.shiftRight_eq_div_pow, Nat.shiftRight_zero]
  simp only [Nat.sub_zero, Nat.reduceSub, Nat.reduceAdd, Nat.reducePow]
  rw [Nat.mod_eq_of_lt (by omega : w.toNat / 256 < 256)]

theorem and_F0FF (w : Word) : (w &&& 0xF0FF).toNat = w.toNat / 4096 * 4096 + w.toNat % 256 := by
  have h := and_mask_toNat w 0xF0 0xFF (f := fun v => v / 16 * 16) (g := fun v => v)
    (by decide +kernel) (by decide +kernel)
  have e : wordOfBytes 0xF0 0xFF = 0xF0FF := by decide
  rw [← e, h]
  have hw := w.isLt
  generalize w.toNat = n at hw
  omega

theorem and_F00F (w : Word) : (w &&& 0xF00F).toNat = w.toNat / 4096 * 4096 + w.toNat % 16 := by
  have h := and_mask_toNat w 0xF0 0x0F (f := fun v => v / 16 * 16) (g := fun v => v % 16)
    (by decide +kernel) (by decide +kernel)
  have e : wordOfBytes 0xF0 0x0F = 0xF00F := by decide
  rw [← e, h]
  have hw := w.isLt
  generalize w.toNat = n at hw
  omega

theorem and_F000 (w : Word) : (w &&& 0xF000).toNat = w.toNat / 4096 * 4096 := by
  have h := and_mask_toNat w 0xF0 0x00 (f := fun v => v / 16 * 16) (g := fun _ => 0)
    (by decide +kernel) (by decide +kernel)
  have e : wordOfBytes 0xF0 0x00 = 0xF000 := by decide
  rw [← e, h]
  have hw := w.isLt
  generalize w.toNat = n at hw
  omega

end Sys2Proof
end

