-- ==== Sys2Proof/Laws/Raster.lean ====
section
/-! SUPPORT. The laws of the pixel buffer: a pixel reads as it was last set, setting one leaves the others alone, and one
plotted bit is an exclusive or; so is a whole sprite. -/

namespace Sys2Proof.Machine

@[simp] theorem Display.get_clear (x : Fin 64) (y : Fin 32) : Display.get Display.clear x y = false := by
  simp [Display.get, Display.clear]

theorem Display.get_set (d : Display) (x x' : Fin 64) (y y' : Fin 32) (b : Bool) :
    Display.get (Display.set d x y b) x' y' = if x = x' ∧ y = y' then b else Display.get d x' y' := by
  simp only [Display.get, Display.set, Vector.getElem_set, Fin.ext_iff]
  by_cases hx : x.val = x'.val
  · simp only [hx, if_true, true_and, Vector.getElem_set]
  · simp only [hx, if_false, false_and]

/-- One plotted bit flips its pixel and no other; it is a collision when the pixel was on (R212). -/
theorem plot_eq (x x' : Fin 64) (y y' : Fin 32) (dc : Display × Bool) :
    Display.get (plot x y dc).1 x' y' = (Display.get dc.1 x' y' ^^ decide (x = x' ∧ y = y'))
      ∧ (plot x y dc).2 = (dc.2 || Display.get dc.1 x y) := by
  rw [plot]
  by_cases hxy : x = x' ∧ y = y'
  · obtain ⟨rfl, rfl⟩ := hxy
    by_cases h : Display.get dc.1 x y = true <;> simp [h, Display.get_set]
  · by_cases h : Display.get dc.1 x y = true <;> simp [h, Display.get_set, hxy]

theorem plot_collision (x : Fin 64) (y : Fin 32) (dc : Display × Bool) :
    (plot x y dc).2 = (dc.2 || Display.get dc.1 x y) := (plot_eq x x y y dc).2

/-- The pixels of a state are its buffer's. -/
theorem State.pixel_eq (s : State) (x : Fin 64) (y : Fin 32) : s.pixel x y = Display.get s.pix x y := rfl

/-! ## What a whole row and a whole sprite do (R212): every covered pixel is flipped once -/

/-- A set bit among the first `m` columns of the row falls on this pixel. -/
def rowCovers (row : Byte) (x0 y m : Nat) (px : Fin 64) (py : Fin 32) : Prop :=
  ∃ c < m, spriteBit row c = true ∧ px = wrapX (x0 + c) ∧ py = wrapY y

/-- A set bit among the first `m` rows of the sprite falls on this pixel. -/
def rowsCover (rowAt : Nat → Byte) (x0 y0 m : Nat) (px : Fin 64) (py : Fin 32) : Prop :=
  ∃ r < m, rowCovers (rowAt r) x0 (y0 + r) 8 px py

theorem exists_lt_succ {P : Nat → Prop} {m : Nat} : (∃ c < m + 1, P c) ↔ (∃ c < m, P c) ∨ P m := by
  constructor
  · rintro ⟨c, hc, h⟩
    rcases Nat.lt_succ_iff_lt_or_eq.mp hc with h' | rfl
    exacts [.inl ⟨c, h', h⟩, .inr h]
  · rintro (⟨c, hc, h⟩ | h)
    exacts [⟨c, Nat.lt_succ_of_lt hc, h⟩, ⟨m, Nat.lt_succ_self m, h⟩]

/-- Two columns less than 64 apart are two pixels. -/
theorem rowCovers_fresh {row : Byte} {x0 y m : Nat} (hm : m < 64) :
    ¬ rowCovers row x0 y m (wrapX (x0 + m)) (wrapY y) := by
  rintro ⟨c, hc, -, h, -⟩
  have := congrArg Fin.val h
  simp only [wrapX, Fin.val_ofNat] at this
  omega

/-- Two rows less than 32 apart share no pixel. -/
theorem rowsCover_fresh {rowAt : Nat → Byte} {x0 y0 m : Nat} {px : Fin 64} {py : Fin 32} (hm : m < 32)
    (h : rowCovers (rowAt m) x0 (y0 + m) 8 px py) : ¬ rowsCover rowAt x0 y0 m px py := by
  obtain ⟨-, -, -, -, h⟩ := h
  rintro ⟨r, hr, -, -, -, -, hpy⟩
  rw [hpy] at h
  have := congrArg Fin.val h
  simp only [wrapY, Fin.val_ofNat] at this
  omega

open Classical in
/-- A row flips what it covers, and collides where a covered pixel was on. -/
theorem drawRow_upto (row : Byte) (x0 y : Nat) (dc : Display × Bool) (m : Nat) (hm : m ≤ 8) (out : Display × Bool)
    (hout : (List.range m).foldl (fun acc c => if spriteBit row c then plot (wrapX (x0 + c)) (wrapY y) acc else acc) dc
      = out) :
    (∀ px py, Display.get out.1 px py = (Display.get dc.1 px py ^^ decide (rowCovers row x0 y m px py)))
      ∧ out.2 = (dc.2 || decide (∃ px py, rowCovers row x0 y m px py ∧ Display.get dc.1 px py = true)) := by
  induction m generalizing out with
  | zero =>
    cases hout
    simp [rowCovers]
  | succ m ih =>
    obtain ⟨h1, h2⟩ := ih (by omega) _ rfl
    simp only [List.range_succ, List.foldl_append, List.foldl_cons, List.foldl_nil] at hout
    generalize (List.range m).foldl
      (fun acc c => if spriteBit row c then plot (wrapX (x0 + c)) (wrapY y) acc else acc) dc = o at h1 h2 hout
    have hstep : ∀ px py, rowCovers row x0 y (m + 1) px py ↔
        rowCovers row x0 y m px py ∨ spriteBit row m = true ∧ px = wrapX (x0 + m) ∧ py = wrapY y :=
      fun px py => exists_lt_succ
    have hfresh := @rowCovers_fresh row x0 y m (by omega)
    subst hout
    by_cases hb : spriteBit row m = true
    · simp only [hb, if_true, hstep, true_and]
      constructor
      · intro px py
        rw [(plot_eq _ px _ py o).1, h1]
        by_cases hc : rowCovers row x0 y m px py
        · have h' : ¬ (px = wrapX (x0 + m) ∧ py = wrapY y) := fun h => hfresh (h.1 ▸ h.2 ▸ hc)
          have h'' : ¬ (wrapX (x0 + m) = px ∧ wrapY y = py) := fun h => h' ⟨h.1.symm, h.2.symm⟩
          simp [hc, h', h'']
        · simp [hc, eq_comm]
      · simp only [plot_collision, h2, h1, hfresh, decide_false, Bool.xor_false, Bool.or_assoc]
        refine congrArg (dc.2 || ·) (Bool.eq_iff_iff.mpr ?_)
        simp only [Bool.or_eq_true, decide_eq_true_eq]
        constructor
        · rintro (⟨px, py, h, h'⟩ | h)
          exacts [⟨px, py, .inl h, h'⟩, ⟨_, _, .inr ⟨rfl, rfl⟩, h⟩]
        · rintro ⟨px, py, h | ⟨rfl, rfl⟩, h'⟩
          exacts [.inl ⟨px, py, h, h'⟩, .inr h']
    · simp only [hb, if_false, hstep, false_and, or_false, Bool.false_eq_true]
      exact ⟨h1, h2⟩

open Classical in
/-- A sprite flips what it covers, and collides where a covered pixel was on. -/
theorem drawSprite_eq (rowAt : Nat → Byte) (x0 y0 : Nat) (d : Display) (n : Nat) (hn : n < 32) :
    (∀ px py, Display.get (drawSprite rowAt n x0 y0 d).1 px py
        = (Display.get d px py ^^ decide (rowsCover rowAt x0 y0 n px py)))
      ∧ (drawSprite rowAt n x0 y0 d).2
        = decide (∃ px py, rowsCover rowAt x0 y0 n px py ∧ Display.get d px py = true) := by
  induction n with
  | zero => simp [rowsCover, drawSprite]
  | succ m ih =>
    obtain ⟨h1, h2⟩ := ih (by omega)
    have hout : drawSprite rowAt (m + 1) x0 y0 d
        = drawRow (rowAt m) x0 (y0 + m) (drawSprite rowAt m x0 y0 d) := by
      simp only [drawSprite, List.range_succ, List.foldl_append, List.foldl_cons, List.foldl_nil]
    rw [hout]
    generalize drawSprite rowAt m x0 y0 d = o at h1 h2
    obtain ⟨r1, r2⟩ := drawRow_upto (rowAt m) x0 (y0 + m) o 8 (Nat.le_refl 8) _ rfl
    have hstep : ∀ px py, rowsCover rowAt x0 y0 (m + 1) px py ↔
        rowsCover rowAt x0 y0 m px py ∨ rowCovers (rowAt m) x0 (y0 + m) 8 px py := fun px py => exists_lt_succ
    rw [drawRow]
    refine ⟨fun px py => ?_, ?_⟩
    · rw [r1, h1]
      by_cases hc : rowCovers (rowAt m) x0 (y0 + m) 8 px py
      · simp [hstep, hc, rowsCover_fresh (by omega) hc]
      · simp [hstep, hc]
    · rw [r2, h2, Bool.eq_iff_iff]
      simp only [Bool.or_eq_true, decide_eq_true_eq, h1, hstep]
      constructor
      · rintro (⟨px, py, h, h'⟩ | ⟨px, py, h, h'⟩)
        · exact ⟨px, py, .inl h, h'⟩
        · rw [decide_eq_false (rowsCover_fresh (by omega) h), Bool.xor_false] at h'
          exact ⟨px, py, .inr h, h'⟩
      · rintro ⟨px, py, h | h, h'⟩
        · exact .inl ⟨px, py, h, h'⟩
        · refine .inr ⟨px, py, h, ?_⟩
          rw [decide_eq_false (rowsCover_fresh (by omega) h), Bool.xor_false, h']

/-- The sprite that DRW draws covers what `SpriteCovers` says. -/
theorem rowsCover_iff_spriteCovers (s : State) (x y : Reg) (n : Fin 16) (px : Fin 64) (py : Fin 32) :
    rowsCover (fun r => s.readByte (s.I.toNat + r)) ((s.reg x).toNat % 64) ((s.reg y).toNat % 32) n.val px py
      ↔ SpriteCovers s x y n px py := by
  constructor
  · rintro ⟨r, hr, c, hc, hb, rfl, rfl⟩
    exact ⟨r, c, hr, hc, hb, rfl, rfl⟩
  · rintro ⟨r, c, hr, hc, hb, h1, h2⟩
    exact ⟨r, hr, c, hc, hb, Fin.ext h1, Fin.ext h2⟩

end Sys2Proof.Machine
end

