-- ==== Sys2Proof/Laws/Step.lean ====
section
/-! SUPPORT. The step transaction by cases: what taking the host's next call leaves alone, and what a step call answers in
each of its phases. -/

namespace Sys2Proof.Machine

/-- Taking the next call touches the host's fields only. -/
theorem State.NextCall.rest {s s0 : State} {c : HostCall} (h : s.NextCall c s0) :
    { s0 with calls := s.calls, freeCalls := s.freeCalls } = s := by
  rw [State.NextCall, State.takeCall] at h
  split at h <;> cases h <;> cases s <;> simp_all

theorem State.NextCall.frame {s s0 : State} {c : HostCall} (h : s.NextCall c s0) :
    OnlyListed [.calls, .freeCalls] s s0 := by
  have hrest := h.rest
  intro p hp
  obtain ⟨⟩ := s
  obtain ⟨⟩ := s0
  simp only [State.mk.injEq] at hrest
  cases p <;> simp_all [Part.same, State.reg, State.readByte, State.pixel]

/-- What the phases read is the same before and after the call is taken. -/
theorem State.NextCall.fields {s s0 : State} {c : HostCall} (h : s.NextCall c s0) :
    s0.fault = s.fault ∧ s0.waiting = s.waiting ∧ s0.waitReg = s.waitReg ∧ s0.ip = s.ip ∧ s0.sp = s.sp ∧ s0.mem = s.mem
      ∧ s0.acc = s.acc ∧ s0.DT = s.DT ∧ s0.ST = s.ST ∧ s0.V = s.V ∧ s0.compat = s.compat ∧ s0.fontOffset = s.fontOffset
      ∧ s0.result = s.result := by
  have hrest := h.rest
  obtain ⟨⟩ := s
  obtain ⟨⟩ := s0
  simp only [State.mk.injEq] at hrest
  simp_all [State.ip]

/-- A step is the host's next transaction. -/
theorem step_eq {s s0 : State} {c : HostCall} (h : s.NextCall c s0) : step s = s0.transact c := by
  rw [step, State.nextTransaction, h]

/-- The lowest key, by its meaning (R111). -/
theorem lowestKey_eq_some {m : Word} {k : Reg} :
    lowestKey m = some k ↔ m.getLsbD k.val = true ∧ ∀ j < k, m.getLsbD j.val = false := by
  have hget : ∀ (j : Nat) (h : j < 16), allRegs[j]'(by simpa [allRegs] using h) = ⟨j, h⟩ := by decide
  rw [lowestKey, List.find?_eq_some_iff_getElem]
  constructor
  · rintro ⟨hk, i, hi, rfl, hlt⟩
    have hi' : i < 16 := by simpa [allRegs] using hi
    refine ⟨hk, fun j hj => ?_⟩
    rw [hget i hi'] at hj
    have := hlt j.val hj
    rw [hget j.val j.isLt] at this
    simpa using this
  · rintro ⟨hk, hlt⟩
    refine ⟨hk, k.val, by simp [allRegs], hget k.val k.isLt, fun j hj => ?_⟩
    rw [hget j (by omega), hlt ⟨j, by omega⟩ hj]
    rfl

/-- No key is held exactly in the empty snapshot. -/
theorem lowestKey_eq_none {m : Word} : lowestKey m = none ↔ m = 0 := by
  rw [lowestKey, List.find?_eq_none]
  constructor
  · intro h
    apply BitVec.eq_of_getLsbD_eq
    intro i hi
    have hmem : ∀ r : Reg, r ∈ allRegs := by decide
    have := h ⟨i, hi⟩ (hmem _)
    simpa using this
  · rintro rfl r _
    simp

/-- Phases 3 to 6 where the fetch reaches memory (R110). -/
theorem State.runInstruction_fetches {s : State} (e : Nat) (h : s.ip.toNat + 2 ≤ Config.memSize) :
    s.runInstruction e = reported (exec (decodeWord s.fetchWord) (s.timerTick e).advanceIp) := by
  rw [State.runInstruction]
  simp only [State.timerTick_ip, firstOutOfRange_none.mpr (.inr h)]
  rfl

/-- Phases 3 and 4 where the fetch does not (R113). -/
theorem State.runInstruction_faults {s : State} (e : Nat) (h : ¬ s.ip.toNat + 2 ≤ Config.memSize) :
    s.runInstruction e = .next ((s.timerTick e).raise (.memoryFault (max s.ip.toNat Config.memSize))) := by
  rw [State.runInstruction]
  simp only [State.timerTick_ip]
  rw [firstOutOfRange_some (by omega)]

/-- What a step of a core with no recorded fault answers: it is paused (R111), or it runs an instruction from the core that
has sampled its input and, where it waited, has left the wait. -/
theorem State.liveStep_cases {s t : State} {m : Word} {e : Nat} (h : s.liveStep m e = .next t) :
    (s.waiting = true ∧ m = 0 ∧ t = (s.sample m).setResult (.ok false))
    ∨ (s.waiting = false ∨ m ≠ 0)
      ∧ ∃ u, (u = s.sample m ∨ ∃ k, u = (s.sample m).endWait k) ∧ u.runInstruction e = .next t := by
  rw [State.liveStep] at h
  split at h
  · rename_i hw hk
    cases h
    exact .inl ⟨hw, lowestKey_eq_none.mp hk, rfl⟩
  · rename_i k hw hk
    refine .inr ⟨.inr fun hm => ?_, _, .inr ⟨k, rfl⟩, h⟩
    rw [lowestKey_eq_none.mpr hm] at hk
    cases hk
  · rename_i hw
    exact .inr ⟨.inl hw, _, .inl rfl, h⟩

/-- Phases 3 to 6: the fetch faults, or an instruction is executed and its outcome reported. -/
theorem State.runInstruction_cases {u t : State} {e : Nat} (h : u.runInstruction e = .next t) :
    t = (u.timerTick e).raise (.memoryFault (max u.ip.toNat Config.memSize)) ∧ ¬ u.ip.toNat + 2 ≤ Config.memSize
    ∨ ∃ v, exec (decodeWord u.fetchWord) (u.timerTick e).advanceIp = .next v ∧ t = v.report := by
  by_cases hi : u.ip.toNat + 2 ≤ Config.memSize
  · rw [State.runInstruction_fetches e hi] at h
    cases hv : exec (decodeWord u.fetchWord) (u.timerTick e).advanceIp with
    | next v =>
      rw [hv] at h
      cases h
      exact .inr ⟨v, rfl, rfl⟩
    | fault r => exact nomatch r
    | refused r =>
      rw [hv] at h
      exact nomatch h
  · rw [State.runInstruction_faults e hi] at h
    cases h
    exact .inl ⟨rfl, hi⟩

end Sys2Proof.Machine
end

