-- ==== Sys2Proof/Tests/Slice0.lean ====
section
/-! SUPPORT. The model's own tests: the ill-formed terms, one word for every constructor, single steps with the results of
spec/95_test_vectors.md (its number stands in each docstring), and for every statement with hypotheses a witness that
meets them. -/

namespace Sys2Proof.Tests

open Sys2Proof Sys2Proof.Machine

/-! ## Well-formed terms (R95, R96) -/

/-- SYS with CLS's low byte is CLS's word: refused. -/
theorem test_wellFormed_sys_not_cls : (Instr.sys 0x3E0).wellFormed = false := by decide

/-- SYS with RET's low byte is RET's word: refused. -/
theorem test_wellFormed_sys_not_ret : (Instr.sys 0x0EE).wellFormed = false := by decide

/-- A word that a row of the map selects is not unrecognized: refused. -/
theorem test_wellFormed_unrecognized_not_a_row :
    [0x1234, 0x5120, 0x812E, 0xE19E, 0xF165].map (fun w => (Instr.unrecognized w).wellFormed)
      = [false, false, false, false, false] := by decide

/-- Terms on the good side of both checks. -/
theorem test_wellFormed_accepts :
    [.sys 0x3E1, .sys 0x000, .unrecognized 0x5121, .unrecognized 0x8128, .unrecognized 0xE19F, .unrecognized 0xF100,
      .unrecognized 0x912F].map Instr.wellFormed = [true, true, true, true, true, true, true] := by decide

/-! ## Every constructor's word, written out from the map of R95 -/

theorem test_decode_system_and_jumps :
    [0x00E0, 0x0AE0, 0x00EE, 0x0123, 0x1ABC, 0x2300, 0xB301].map decodeWord
      = [.cls, .cls, .ret, .sys 0x123, .jp 0xABC, .call 0x300, .jpV0 0x301] := by decide

theorem test_decode_skips :
    [0x3A42, 0x4B43, 0x51E0, 0x92F0, 0xE69E, 0xE7A1].map decodeWord
      = [.seImm 10 0x42, .sneImm 11 0x43, .seReg 1 14, .sneReg 2 15, .skp 6, .sknp 7] := by decide

theorem test_decode_immediates :
    [0x6AFF, 0x7F01, 0xC30F].map decodeWord
      = [.ldImm 10 0xFF, .addImm 15 1, .rnd 3 0x0F] := by decide

theorem test_decode_alu :
    [0x8120, 0x8341, 0x8562, 0x8783, 0x89A4, 0x8BC5, 0x8DE6, 0x8F07, 0x812E].map decodeWord
      = [.ldReg 1 2, .orReg 3 4, .andReg 5 6, .xorReg 7 8, .addReg 9 10, .subReg 11 12, .shr 13 14, .subn 15 0, .shl 1 2] := by decide

theorem test_decode_index_and_timers :
    [0xAFFF, 0xF307, 0xFE0A, 0xF415, 0xF518, 0xF11E, 0xF229, 0xF333, 0xF455, 0xFF65].map decodeWord
      = [.ldI 0xFFF, .ldVxDT 3, .ldVxK 14, .ldDTVx 4, .ldSTVx 5, .addI 1, .ldF 2, .ldB 3, .storeRegs 4, .loadRegs 15] := by decide

theorem test_decode_draw_and_unrecognized :
    [0xD125, 0xDFE0, 0x5121, 0x8ABC, 0x9121, 0xE123, 0xF1FF].map decodeWord
      = [.drw 1 2 5, .drw 15 14 0, .unrecognized 0x5121, .unrecognized 0x8ABC, .unrecognized 0x9121, .unrecognized 0xE123, .unrecognized 0xF1FF] := by decide

/-- The first byte is the high byte, and what follows stays (R90, R92). -/
theorem test_decode_bytes : decode [0x12, 0x34, 0x56] = .ok (.jp 0x234, [0x56]) := by decide

/-- One byte is no instruction. -/
theorem test_decode_short : (match decode [0x12] with | .ok _ => false | .error _ => true) = true := by decide

theorem test_encode_drw : encode (.drw 1 2 5) = [0xD1, 0x25] := by decide

/-- The table's numbering is that of the word: bit 0 is the least significant. -/
theorem test_decodeTableWord : decodeTableWord 16 0x812E = some (.shl 1 2) := by decide

/-! ## Single steps -/

/-- The step of a core with a word at `ip`, on the host's call `step(m, e)`. -/
def runStep (w : Word) (s : State) (m : Word := 0) (e : Nat := 0) : Answer :=
  step { s.placeWord w with calls := [.step m e] }

/-- The step of a core as it is, on the host's call `step(m, e)`. -/
def bareStep (s : State) (m : Word := 0) (e : Nat := 0) : Answer := step { s with calls := [.step m e] }

/-- The answer is a next state of which `p` holds. -/
def Answers (a : Answer) (p : State → Bool) : Bool :=
  match a with
  | .next t => p t
  | .fault _ => false
  | .refused _ => false

/-- The reset state with some registers set. -/
def withRegs (rs : List (Reg × Byte)) : State := rs.foldl (fun s p => s.setReg p.1 p.2) State.reset

/-- A state with bytes stored. -/
def withBytes (s : State) (a : Nat) (bs : List Byte) : State := s.storeBytes a bs

/-- The reset state with the instruction pointer elsewhere. -/
def withIp (ip : Word) : State := State.reset.setIp ip

/-- The reset state with the stack pointer elsewhere. -/
def withSp (k : Fin 255) : State := State.reset.setSp k

/-- The number of pixels that are on. -/
def pixelsOn (s : State) : Nat := (s.pix.toList.map fun c => c.toList.countP id).sum

/-- Test vector A2. -/
theorem test_A2_halted :
    Answers (runStep 0x0000 (withIp 0xFFE))
      (fun t => t.ip == 0x1000 && t.result == .ok true) = true := by
  decide

/-- Test vector A4. -/
theorem test_A4_fetch_fault :
    Answers (bareStep (withIp 0xFFF))
      (fun t => t.ip == 0xFFF && t.fault == some (.memoryFault 0x1000) && t.result == .err (.memoryFault 0x1000)) = true := by
  decide

/-- Test vector A5. -/
theorem test_A5_terminal :
    Answers (bareStep { State.reset with fault := some .stackOverflow, beep := true } 0xFFFF 100)
      (fun t => t.result == .err .stackOverflow && t.beep && t.acc == 0 && t.keys == 0 && t.ip == 0x200) = true := by
  decide

/-- Test vector A6. -/
theorem test_A6_odd_ip :
    Answers (runStep 0x60AB (withIp 0x201))
      (fun t => t.reg 0 == 0xAB && t.ip == 0x203) = true := by
  decide

/-- Test vector A8. -/
theorem test_A8_unrecognized :
    Answers (runStep 0x8ABC (withRegs [(10, 7)]))
      (fun t => t.ip == 0x202 && t.V == (withRegs [(10, 7)]).V) = true := by
  decide

/-- Test vector A11. -/
theorem test_A11_tick_first :
    Answers (runStep 0xF207 ({ State.reset with DT := 1 }) 0 17)
      (fun t => t.DT == 0 && t.reg 2 == 0 && t.ip == 0x202) = true := by
  decide

/-- Test vector B2. -/
theorem test_B2_tick :
    Answers (runStep 0x1200 ({ State.reset with DT := 2, acc := 16 }) 0 1)
      (fun t => t.acc == 0 && t.DT == 1) = true := by
  decide

/-- Test vector B3. -/
theorem test_B3_no_catch_up :
    Answers (runStep 0x1200 ({ State.reset with DT := 5 }) 0 1000)
      (fun t => t.acc == 0 && t.DT == 4) = true := by
  decide

/-- Test vector B4. -/
theorem test_B4_beep :
    Answers (runStep 0x1200 ({ State.reset with ST := 1 }) 0 17)
      (fun t => t.ST == 0 && t.beep) = true := by
  decide

/-- Test vector B8. -/
theorem test_B8_paused :
    Answers (bareStep { State.reset with waiting := true, DT := 3, acc := 10 } 0 100)
      (fun t => t.result == .ok false && t.DT == 3 && t.acc == 10 && t.ip == 0x200 && t.waiting) = true := by
  decide

/-- Test vector L1-7, step 3. -/
theorem test_L1_7_key_wait_resumes :
    Answers (bareStep (withBytes ({ withIp 0x202 with waiting := true, waitReg := 5 }) 0x202 [0x67, 0x01]) 0x0008 0)
      (fun t => t.reg 5 == 3 && !t.waiting && t.reg 7 == 1 && t.ip == 0x204 && t.result == .ok false) = true := by
  decide

/-- Test vector C1. -/
theorem test_C1_cls :
    Answers (runStep 0x00E0 ({ withRegs [(15, 1)] with pix := Display.set Display.clear 63 31 true }))
      (fun t => pixelsOn t == 0 && t.reg 15 == 1 && t.ip == 0x202) = true := by
  decide

/-- Test vector C2. -/
theorem test_C2_cls_other_spelling :
    Answers (runStep 0x03E0 ({ withRegs [(15, 1)] with pix := Display.set Display.clear 63 31 true }))
      (fun t => pixelsOn t == 0 && t.reg 15 == 1 && t.ip == 0x202) = true := by
  decide

/-- Test vector C3. -/
theorem test_C3_ret_at_the_bottom :
    Answers (runStep 0x00EE (State.reset))
      (fun t => t.ip == 0x202 && t.sp == 0) = true := by
  decide

/-- Test vector L1-8, step 2. -/
theorem test_L1_8_ret :
    Answers (bareStep (withBytes (((State.reset.setIp 0x202).setSp 1).setIp 0x300) 0x300 [0x00, 0xEE]))
      (fun t => t.ip == 0x202 && t.sp == 0) = true := by
  decide

/-- Test vector A1. -/
theorem test_A1_sys :
    Answers (runStep 0x0000 (State.reset))
      (fun t => t.ip == 0x202 && t.result == .ok false) = true := by
  decide

/-- Test vector C5. -/
theorem test_C5_jp :
    Answers (runStep 0x1FFF (State.reset))
      (fun t => t.ip == 0xFFF && t.result == .ok false) = true := by
  decide

/-- Test vector C6. -/
theorem test_C6_call :
    Answers (runStep 0x2ABC (State.reset))
      (fun t => t.sp == 1 && t.ip == 0xABC && t.stack[0] == 0x202) = true := by
  decide

/-- Test vector C7. -/
theorem test_C7_overflow :
    Answers (runStep 0x2300 ((withSp 254).setIp 0x200))
      (fun t => t.sp == 254 && t.ip == 0x202 && t.fault == some .stackOverflow && t.result == .err .stackOverflow) = true := by
  decide +kernel

/-- Test vector C8. -/
theorem test_C8_jpV0 :
    Answers (runStep 0xB301 (withRegs [(0, 2)]))
      (fun t => t.ip == 0x303) = true := by
  decide

/-- Test vector C9. -/
theorem test_C9_jpV0_above_memory :
    Answers (runStep 0xBFFF (withRegs [(0, 0xFF)]))
      (fun t => t.ip == 0x10FE && t.result == .ok true) = true := by
  decide

/-- Test vector C10. -/
theorem test_C10_se_taken :
    Answers (runStep 0x3400 (State.reset))
      (fun t => t.ip == 0x204) = true := by
  decide

/-- Test vector C11. -/
theorem test_C11_se_not_taken :
    Answers (runStep 0x3400 (withRegs [(4, 1)]))
      (fun t => t.ip == 0x202) = true := by
  decide

/-- Test vector C12. -/
theorem test_C12_sne_taken :
    Answers (runStep 0x4400 (withRegs [(4, 1)]))
      (fun t => t.ip == 0x204) = true := by
  decide

/-- Test vector C13. -/
theorem test_C13_sne_not_taken :
    Answers (runStep 0x4400 (State.reset))
      (fun t => t.ip == 0x202) = true := by
  decide

/-- Test vector C14. -/
theorem test_C14_seReg_taken :
    Answers (runStep 0x5120 (withRegs [(1, 0x33), (2, 0x33)]))
      (fun t => t.ip == 0x204) = true := by
  decide

/-- Test vector C15. -/
theorem test_C15_seReg_not_taken :
    Answers (runStep 0x5120 (withRegs [(1, 0x33), (2, 0x34)]))
      (fun t => t.ip == 0x202) = true := by
  decide

/-- Test vector C16. -/
theorem test_C16_sneReg_taken :
    Answers (runStep 0x9120 (withRegs [(1, 0x33), (2, 0x34)]))
      (fun t => t.ip == 0x204) = true := by
  decide

/-- Test vector C17. -/
theorem test_C17_sneReg_same :
    Answers (runStep 0x9110 (withRegs [(1, 0x33)]))
      (fun t => t.ip == 0x202) = true := by
  decide

/-- Test vector C19. -/
theorem test_C19_skp_held :
    Answers (runStep 0xE69E (withRegs [(6, 15)]) 0x8000)
      (fun t => t.ip == 0x204) = true := by
  decide

/-- Test vector C20. -/
theorem test_C20_skp_not_held :
    Answers (runStep 0xE69E (withRegs [(6, 15)]) 0x7FFF)
      (fun t => t.ip == 0x202) = true := by
  decide

/-- Test vector C22. -/
theorem test_C22_sknp_no_such_key :
    Answers (runStep 0xE6A1 (withRegs [(6, 0x10)]) 0xFFFF)
      (fun t => t.ip == 0x204) = true := by
  decide

/-- Test vector C23. -/
theorem test_C23_sknp_held :
    Answers (runStep 0xE6A1 (State.reset) 0x0001)
      (fun t => t.ip == 0x202) = true := by
  decide

/-- Test vector D1. -/
theorem test_D1_ldImm :
    Answers (runStep 0x6AFF (State.reset))
      (fun t => t.reg 10 == 0xFF) = true := by
  decide

/-- Test vector D2. -/
theorem test_D2_addImm_no_flag :
    Answers (runStep 0x7101 (withRegs [(1, 0xFF), (15, 7)]))
      (fun t => t.reg 1 == 0 && t.reg 15 == 7) = true := by
  decide

/-- Test vector D4. -/
theorem test_D4_ldReg :
    Answers (runStep 0x8120 (withRegs [(1, 0x12), (2, 0x34)]))
      (fun t => t.reg 1 == 0x34 && t.reg 2 == 0x34) = true := by
  decide

/-- Test vector D5. -/
theorem test_D5_or :
    Answers (runStep 0x8121 (withRegs [(1, 0x0F), (2, 0xF0), (15, 0x55)]))
      (fun t => t.reg 1 == 0xFF && t.reg 15 == 0x55) = true := by
  decide

/-- Test vector D6. -/
theorem test_D6_and :
    Answers (runStep 0x8122 (withRegs [(1, 0x3C), (2, 0x0F), (15, 0x55)]))
      (fun t => t.reg 1 == 0x0C && t.reg 15 == 0x55) = true := by
  decide

/-- Test vector D7. -/
theorem test_D7_xor :
    Answers (runStep 0x8113 (withRegs [(1, 0x3C), (15, 0x55)]))
      (fun t => t.reg 1 == 0 && t.reg 15 == 0x55) = true := by
  decide

/-- Test vector L1-1 and L1-2. -/
theorem test_L1_1_add :
    Answers (runStep 0x8124 (withRegs [(1, 0xF0), (2, 0x20)]))
      (fun t => t.reg 1 == 0x10 && t.reg 15 == 1) = true := by
  decide

/-- Test vector D11. -/
theorem test_D11_add_into_vf :
    Answers (runStep 0x8F14 (withRegs [(1, 2), (15, 0xFF)]))
      (fun t => t.reg 15 == 1) = true := by
  decide

/-- Test vector L1-2. -/
theorem test_L1_2_sub_borrow :
    Answers (runStep 0x8125 (withRegs [(1, 3), (2, 5)]))
      (fun t => t.reg 1 == 0xFE && t.reg 15 == 0) = true := by
  decide

/-- Test vector D16. -/
theorem test_D16_sub_into_vf :
    Answers (runStep 0x8F15 (withRegs [(1, 1), (15, 0x10)]))
      (fun t => t.reg 15 == 1) = true := by
  decide

/-- Test vector L1-2. -/
theorem test_L1_2_subn_borrow :
    Answers (runStep 0x8127 (withRegs [(1, 5), (2, 3)]))
      (fun t => t.reg 1 == 0xFE && t.reg 15 == 1) = true := by
  decide

/-- Test vector D17. -/
theorem test_D17_subn_equal :
    Answers (runStep 0x8127 (withRegs [(1, 7), (2, 7)]))
      (fun t => t.reg 1 == 0 && t.reg 15 == 0) = true := by
  decide

/-- Test vector D20. -/
theorem test_D20_shr_from_vy :
    Answers (runStep 0x8126 (withRegs [(1, 0xAA), (2, 3)]))
      (fun t => t.reg 1 == 1 && t.reg 15 == 1 && t.reg 2 == 3) = true := by
  decide

/-- Test vector D21. -/
theorem test_D21_shr_from_vx :
    Answers (runStep 0x8126 ({ withRegs [(1, 0xAA), (2, 3)] with compat := { loadStore := false, shift := true } }))
      (fun t => t.reg 1 == 0x55 && t.reg 15 == 0) = true := by
  decide

/-- Test vector D23. -/
theorem test_D23_shl_from_vy :
    Answers (runStep 0x812E (withRegs [(2, 0x81)]))
      (fun t => t.reg 1 == 2 && t.reg 15 == 1) = true := by
  decide

/-- Test vector D24. -/
theorem test_D24_shl_from_vx :
    Answers (runStep 0x812E ({ withRegs [(1, 0x7F)] with compat := { loadStore := false, shift := true } }))
      (fun t => t.reg 1 == 0xFE && t.reg 15 == 0) = true := by
  decide

/-- Test vector D27. -/
theorem test_D27_rnd :
    Answers (runStep 0xC10F ({ State.reset with random := [0xA5, 0x11] }))
      (fun t => t.reg 1 == 5 && t.random == [0x11]) = true := by
  decide

/-- Test vector D28: whatever the free random byte is. -/
theorem test_D28_rnd_any_byte :
    Answers (runStep 0xC100 (withRegs [(1, 0xFF)]))
      (fun t => t.freeDraws == 1) = true := by
  decide

/-- Test vector E1. -/
theorem test_E1_ldI :
    Answers (runStep 0xAFFF (State.reset))
      (fun t => t.I == 0x0FFF) = true := by
  decide

/-- Test vector E2. -/
theorem test_E2_ldVxDT :
    Answers (runStep 0xF307 ({ State.reset with DT := 0x20 }))
      (fun t => t.reg 3 == 0x20) = true := by
  decide

/-- Test vector E3. -/
theorem test_E3_ldVxK :
    Answers (runStep 0xFE0A (withRegs [(14, 9)]))
      (fun t => t.waiting && t.waitReg == 14 && t.reg 14 == 9) = true := by
  decide

/-- Test vector E4. -/
theorem test_E4_ldDTVx :
    Answers (runStep 0xF315 (withRegs [(3, 0x80)]))
      (fun t => t.DT == 0x80) = true := by
  decide

/-- Test vector E5. -/
theorem test_E5_ldSTVx :
    Answers (runStep 0xF318 ({ State.reset with ST := 5 }))
      (fun t => t.ST == 0 && !t.beep) = true := by
  decide

/-- Test vector E6. -/
theorem test_E6_addI :
    Answers (runStep 0xF11E ({ withRegs [(1, 1), (15, 7)] with I := 0x0FFF }))
      (fun t => t.I == 0x1000 && t.reg 15 == 7) = true := by
  decide

/-- Test vector E7. -/
theorem test_E7_addI_wraps :
    Answers (runStep 0xF11E ({ withRegs [(1, 2)] with I := 0xFFFF }))
      (fun t => t.I == 0x0001) = true := by
  decide

/-- Test vector E8. -/
theorem test_E8_ldF :
    Answers (runStep 0xF129 (withRegs [(1, 0x0F)]))
      (fun t => t.I == 0x004B) = true := by
  decide

/-- Test vector E9. -/
theorem test_E9_ldF_low_nibble :
    Answers (runStep 0xF129 ({ withRegs [(1, 0x1A)] with fontOffset := 0x50 }))
      (fun t => t.I == 0x0082) = true := by
  decide

/-- Test vector E13. -/
theorem test_E13_ldB :
    Answers (runStep 0xF133 ({ withRegs [(1, 255)] with I := 0x300 }))
      (fun t => t.readByte 0x300 == 2 && t.readByte 0x301 == 5 && t.readByte 0x302 == 5 && t.I == 0x300) = true := by
  decide

/-- Test vector E14. -/
theorem test_E14_ldB_fault :
    Answers (runStep 0xF133 ({ withRegs [(1, 255)] with I := 0x0FFE }))
      (fun t => t.readByte 0xFFE == 0 && t.readByte 0xFFF == 0 && t.fault == some (.memoryFault 0x1000)) = true := by
  decide

/-- Test vector L1-10. -/
theorem test_L1_10_storeRegs :
    Answers (runStep 0xF355 ({ withRegs [(0, 9), (1, 8), (2, 7), (3, 6)] with I := 0x300 }))
      (fun t => t.readByte 0x300 == 9 && t.readByte 0x303 == 6 && t.readByte 0x304 == 0 && t.I == 0x304) = true := by
  decide

/-- Test vector E17. -/
theorem test_E17_storeRegs_fault :
    Answers (runStep 0xFF55 ({ withRegs [(0, 9)] with I := 0x0FF1 }))
      (fun t => t.readByte 0xFF1 == 0 && t.I == 0x0FF1 && t.result == .err (.memoryFault 0x1000)) = true := by
  decide

/-- Test vector E18, four registers of it. -/
theorem test_E18_loadRegs :
    Answers (runStep 0xF365 (withBytes { State.reset with I := 0x300 } 0x300 [0x10, 0x11, 0x12, 0x13, 0x14]))
      (fun t => t.reg 0 == 0x10 && t.reg 3 == 0x13 && t.reg 4 == 0 && t.I == 0x304) = true := by
  decide

/-- Test vector E19. -/
theorem test_E19_loadRegs_keeps_I :
    Answers (runStep 0xFF65 (withBytes { State.reset with I := 0x300, compat := { loadStore := true, shift := false } } 0x30F [0x1F]))
      (fun t => t.reg 15 == 0x1F && t.I == 0x300) = true := by
  decide

/-- Test vector L1-5. -/
theorem test_L1_5_draw_wraps :
    Answers (runStep 0xD012 (withBytes { withRegs [(0, 63), (1, 31)] with I := 0x300 } 0x300 [0xFF, 0xFF]))
      (fun t => pixelsOn t == 16 && t.pixel 63 31 && t.pixel 0 31 && t.pixel 6 0 && !t.pixel 7 0 && t.reg 15 == 0) = true := by
  decide +kernel

/-- Test vector F2. -/
theorem test_F2_draw_collides :
    Answers (runStep 0xD011 (withBytes { State.reset with I := 0x300, pix := Display.set (Display.set (Display.set (Display.set Display.clear 0 0 true) 1 0 true) 2 0 true) 3 0 true } 0x300 [0x18]))
      (fun t => pixelsOn t == 4 && t.pixel 2 0 && !t.pixel 3 0 && t.pixel 4 0 && t.reg 15 == 1) = true := by
  decide

/-- Test vector C18, through `withFetchWord`. -/
theorem test_C18_withFetchWord :
    Answers (step { State.reset.withFetchWord 16 0x9121 with calls := [.step 0 0] })
      (fun t => t.ip == 0x202 && t.reg 2 == 0) = true := by
  decide

/-- The configuration and construction ports through the step of the model (R48, R51, R60). -/
theorem test_load : Answers (step { withRegs [(3, 7)] with calls := [.load [0x12, 0x00] [0xF0] 0x50] })
    (fun t => t.reg 3 == 0 && t.readByte 0x50 == 0xF0 && t.readByte 0x200 == 0x12 && t.ip == 0x200 && t.fontOffset == 0x50)
      = true := by decide

/-- A word placed after reset is run by the very next step, whatever the free call's arguments are. -/
theorem test_withFetchWord_runs : ∃ t, step (State.reset.withFetchWord 16 0x6142) = .next t ∧ t.reg 1 = 0x42 :=
  ⟨_, rfl, rfl⟩

theorem test_core_step : core.step = step := rfl

/-! ## Witnesses: concrete states and operands that meet the hypotheses of each statement -/

theorem test_witness_DecodeReadsBackEveryEncoding :
    (Instr.sys 0xFFF).wellFormed = true ∧ (Instr.unrecognized 0xFFFF).wellFormed = true
      ∧ (Instr.drw 15 0 15).wellFormed = true := by decide

theorem test_witness_RetReturnsToTheCallersSlot :
    (withSp 1).sp.val = (0 : Fin 255).val + 1 ∧ (withSp 254).sp.val = (253 : Fin 255).val + 1 ∧ (withSp 0).sp = 0 := by
  decide

theorem test_witness_CallPushesTheReturnAddress :
    (1 : Fin 255).val = (withSp 0).sp.val + 1 ∧ (254 : Fin 255).val = (withSp 253).sp.val + 1 := by decide

theorem test_witness_CallOnAFullStackRaisesOverflow : (withSp 254).sp.val = 254 := by decide

theorem test_witness_CallThenReturnRestoresTheCaller :
    (1 : Fin 255).val = (withSp 0).sp.val + 1 ∧ (254 : Fin 255).val = (withSp 253).sp.val + 1
      ∧ ∃ t r, exec (.call 0x300) (withSp 253) = .next t ∧ r.ip = t.ip + 2 ∧ OnlyListed [.slot t.sp] t r :=
  ⟨by decide, by decide, _, _, rfl, by decide, advanceIp_frame _⟩

theorem test_witness_ShiftsByOne :
    (3 = if (withRegs [(1, 0xAA), (2, 3)]).compat.shift = true then
        ((withRegs [(1, 0xAA), (2, 3)]).reg 1).toNat else ((withRegs [(1, 0xAA), (2, 3)]).reg 2).toNat)
      ∧ (5 : Reg) ≠ 15 := by decide

theorem test_witness_AluFlagsBesideTheResult : (1 : Reg) ≠ 15 ∧ (14 : Reg) ≠ 15 := by decide

theorem test_witness_RndMasksOneRandomByte :
    { State.reset with random := [0xA5] }.random = (0xA5 : Byte) :: [] ∧ State.reset.random = [] := ⟨rfl, rfl⟩

theorem test_witness_StoreDecimalDigits :
    { withBytes State.reset 0xFFD [1, 2] with I := 0xFFD }.mem.wf
      ∧ { withBytes State.reset 0xFFD [1, 2] with I := 0xFFD }.I.toNat + 2 < 4096 := by decide

theorem test_witness_StoreRegistersAtIndex :
    State.reset.mem.wf ∧ { State.reset with I := 0xFF0 }.I.toNat + (15 : Reg).val < 4096
      ∧ { State.reset with I := 0xFFF }.I.toNat + (0 : Reg).val < 4096 := by decide

theorem test_witness_LoadRegistersFromIndex :
    { State.reset with I := 0xFF0 }.I.toNat + (15 : Reg).val < 4096
      ∧ { State.reset with I := 0xFFF }.I.toNat + (0 : Reg).val < 4096 := by decide

theorem test_witness_OutOfRangeAccessRaisesMemoryFault :
    4096 < { State.reset with I := 0xFFE }.I.toNat + 3
      ∧ 4096 < { State.reset with I := 0x1000 }.I.toNat + ((0 : Reg).val + 1)
      ∧ 4096 < { State.reset with I := 0xFF1 }.I.toNat + ((15 : Reg).val + 1)
      ∧ 0 < (2 : Fin 16).val ∧ 4096 < { State.reset with I := 0xFFF }.I.toNat + (2 : Fin 16).val := by decide

/-- A sprite of one pixel at `(63, 31)`. -/
def oneDot : State := withBytes { withRegs [(0, 63), (1, 31)] with I := 0x300 } 0x300 [0x80]

theorem test_witness_DrawXorsTheSprite_covered : SpriteCovers oneDot 0 1 1 63 31 :=
  ⟨0, 0, by decide, by decide, by decide, by decide, by decide⟩

theorem test_witness_DrawXorsTheSprite_heights :
    ((0 : Fin 16).val = 0 ∨ { oneDot with I := 0xFFFF }.I.toNat + (0 : Fin 16).val ≤ 4096)
      ∧ ((15 : Fin 16).val = 0 ∨ { oneDot with I := 0xFF1 }.I.toNat + (15 : Fin 16).val ≤ 4096)
      ∧ ((1 : Fin 16).val = 0 ∨ oneDot.I.toNat + (1 : Fin 16).val ≤ 4096) := by decide

/-- The collision case: the covered pixel is on. -/
theorem test_witness_DrawXorsTheSprite_collision :
    ∃ px py, SpriteCovers { oneDot with pix := Display.set Display.clear 63 31 true } 0 1 1 px py
      ∧ { oneDot with pix := Display.set Display.clear 63 31 true }.pixel px py = true :=
  ⟨63, 31, ⟨0, 0, by decide, by decide, by decide, by decide, by decide⟩, by decide⟩

/-- The other case, and a pixel not covered: a sprite of height 0. -/
theorem test_witness_DrawXorsTheSprite_no_collision (px : Fin 64) (py : Fin 32) : ¬ SpriteCovers oneDot 0 1 0 px py :=
  fun ⟨_, _, h, _⟩ => absurd h (Nat.not_lt_zero _)

theorem test_witness_DrawTwiceRestoresTheDisplay :
    (0 : Reg) ≠ 15 ∧ (1 : Reg) ≠ 15 ∧ ((1 : Fin 16).val = 0 ∨ oneDot.I.toNat + (1 : Fin 16).val ≤ 4096) := by
  decide

/-- A core with `LD V1, 0x42` at `ip`, and two calls of the host to come. -/
def atLastWord : State := { (withIp 0xFFE).placeWord 0x6142 with calls := [.step 3 5, .enableCompat .shift] }

theorem test_witness_StepRunsTheDecodedInstruction :
    atLastWord.NextCall (.step 3 5) { atLastWord with calls := [.enableCompat .shift] }
      ∧ atLastWord.fault = none ∧ atLastWord.waiting = false ∧ atLastWord.ip.toNat + 1 < 4096
      ∧ decode [atLastWord.readByte atLastWord.ip.toNat, atLastWord.readByte (atLastWord.ip.toNat + 1)]
        = .ok (.ldImm 1 0x42, []) := ⟨rfl, rfl, rfl, by decide, by decide⟩

/-- Past the end of the host's list the next call is a step call with free arguments. -/
theorem test_witness_NextCall_free :
    State.reset.NextCall (.step (Config.freeKeys 0) (Config.freeMillis 0)) { State.reset with freeCalls := 1 } := rfl

/-- A core off the end of memory. -/
def offTheEnd (ip : Word) : State := { withIp ip with calls := [.step 0 0] }

theorem test_witness_FetchOffTheEndRaisesMemoryFault :
    (∀ ip, (offTheEnd ip).NextCall (.step 0 0) { offTheEnd ip with calls := [] })
      ∧ (∀ ip, (offTheEnd ip).fault = none ∧ (offTheEnd ip).waiting = false)
      ∧ 4095 ≤ (offTheEnd 0xFFF).ip.toNat ∧ 4095 ≤ (offTheEnd 0xFFFF).ip.toNat :=
  ⟨fun _ => rfl, fun _ => ⟨rfl, rfl⟩, by decide, by decide⟩

/-- A waiting core. -/
def waitingCore (m : Word) : State := { State.reset with waiting := true, waitReg := 5, calls := [.step m 17] }

theorem test_witness_KeyWaitPausesTheCore :
    (waitingCore 0).NextCall (.step 0 17) { waitingCore 0 with calls := [] } ∧ (waitingCore 0).fault = none
      ∧ (waitingCore 0).waiting = true := ⟨rfl, rfl, rfl⟩

theorem test_witness_KeyWaitTakesTheLowestKey :
    (∀ m, (waitingCore m).NextCall (.step m 17) { waitingCore m with calls := [] } ∧ (waitingCore m).fault = none
        ∧ (waitingCore m).waiting = true)
      ∧ ((0xFFFF : Word).getLsbD (0 : Reg).val = true ∧ ∀ j < (0 : Reg), (0xFFFF : Word).getLsbD j.val = false)
      ∧ ((0x8000 : Word).getLsbD (15 : Reg).val = true ∧ ∀ j < (15 : Reg), (0x8000 : Word).getLsbD j.val = false) :=
  ⟨fun _ => ⟨rfl, rfl, rfl⟩, by decide, by decide⟩

theorem test_witness_TimerTickDecrementsAtMostOnce :
    { State.reset with acc := 16 }.acc + 0 < 17 ∧ 17 ≤ { State.reset with acc := 16 }.acc + 1
      ∧ 17 ≤ State.reset.acc + 17 := by decide

/-- A core whose sound timer is about to run out, with an endless loop at `ip`. -/
def aboutToBeep : State := { State.reset.placeWord 0x1200 with ST := 1, calls := [.step 0 17] }

theorem test_witness_BeepExactlyWhenTheSoundTimerExpires :
    aboutToBeep.NextCall (.step 0 17) { aboutToBeep with calls := [] } ∧ aboutToBeep.fault = none
      ∧ (∃ t, step aboutToBeep = .next t) ∧ (aboutToBeep.waiting = false ∨ (0 : Word) ≠ 0)
      ∧ (aboutToBeep.acc + 17) * 60 > 1000 ∧ aboutToBeep.ST = 1 :=
  ⟨rfl, rfl, ⟨_, rfl⟩, .inl rfl, by decide, rfl⟩

theorem test_witness_FatalErrorIsTerminal :
    { State.reset with fault := some (.memoryFault 4096), calls := [.step 1 1] }.NextCall (.step 1 1)
        { State.reset with fault := some (.memoryFault 4096) }
      ∧ { State.reset with fault := some (.memoryFault 4096), calls := [.step 1 1] }.fault = some (.memoryFault 4096) :=
  ⟨rfl, rfl⟩

theorem test_witness_EnableCompatSetsOneFlag :
    { State.reset with calls := [.enableCompat .loadStore] }.calls = .enableCompat .loadStore :: []
      ∧ { State.reset with calls := [.enableCompat .shift] }.calls = .enableCompat .shift :: [] := ⟨rfl, rfl⟩

/-- The largest images: a program that fills memory from 0x200 on and a font that fills what is below. -/
theorem test_witness_LoadEstablishesTheResetState :
    ImagesFit (List.replicate 3584 0xFF) (List.replicate 512 0xFF) 0
      ∧ ImagesFit [0x12, 0x00] (List.replicate 80 0xFF) 0x202
      ∧ { State.reset with calls := [.load [0x12, 0x00] [] 0] }.calls = .load [0x12, 0x00] [] 0 :: [] :=
  ⟨by rw [ImagesFit, List.length_replicate, List.length_replicate]; decide,
    by rw [ImagesFit, List.length_replicate]; decide, rfl⟩

/-- Each precondition can fail alone: a program too long, a font past the end, an overlap. -/
theorem test_witness_LoadOutsideItsPreconditionsIsRefused :
    ¬ ImagesFit (List.replicate 3585 0xFF) [] 0 ∧ ¬ ImagesFit [] [0xFF] 4096 ∧ ¬ ImagesFit [0x12, 0x00] [0xFF] 0x201
      ∧ { State.reset with calls := [.load [] [0xFF] 4096] }.calls = .load [] [0xFF] 4096 :: [] :=
  ⟨by rw [ImagesFit, List.length_replicate]; decide, by rw [ImagesFit]; decide, by rw [ImagesFit]; decide, rfl⟩

theorem test_witness_StepReportsHalted :
    atLastWord.NextCall (.step 3 5) { atLastWord with calls := [.enableCompat .shift] } ∧ atLastWord.fault = none
      ∧ (atLastWord.waiting = false ∨ (3 : Word) ≠ 0) ∧ ∃ t, step atLastWord = .next t ∧ t.fault = none :=
  ⟨rfl, rfl, .inl rfl, _, rfl, rfl⟩

theorem test_witness_EveryStepKeepsTheInvariant : oneDot.Inv ∧ ∃ t, step { oneDot with calls := [.step 0 0] } = .next t :=
  ⟨⟨by decide, by decide, by decide, trivial⟩, _, rfl⟩

theorem test_witness_RegistersChangeOnlyByTheirWriters :
    ∃ t, exec (.ldImm 3 0x42) State.reset = .next t ∧ t.reg 3 ≠ State.reset.reg 3 := ⟨_, rfl, by decide⟩

theorem test_witness_DisplayMemoryAndIndexChangeOnlyByTheirWriters :
    (∃ t, exec (.drw 0 1 1) oneDot = .next t ∧ ∃ px py, t.pixel px py ≠ oneDot.pixel px py)
      ∧ (∃ t, exec (.ldB 0) oneDot = .next t ∧ ∃ a, t.readByte a ≠ oneDot.readByte a)
      ∧ ∃ t, exec (.addI 0) oneDot = .next t ∧ t.I ≠ oneDot.I :=
  ⟨⟨_, rfl, 63, 31, by decide⟩, ⟨_, rfl, 0x301, by decide⟩, ⟨_, rfl, by decide⟩⟩

theorem test_witness_InstructionsNeverTouchTheHostsState : ∃ t, exec (.ldVxK 3) State.reset = .next t := ⟨_, rfl⟩

theorem test_witness_SavedReturnAddressesAreKept :
    (∃ t, exec (.call 0x300) (withSp 253) = .next t) ∧ (0 : Fin 255) < (withSp 253).sp ∧ (252 : Fin 255) < (withSp 253).sp :=
  ⟨⟨_, rfl⟩, by decide, by decide⟩

/-- A core with both flags set, and a step call to come. -/
def bothFlags : State := { State.reset with compat := { loadStore := true, shift := true }, calls := [.step 0 0] }

theorem test_witness_CompatFlagsAreNeverCleared :
    (∀ p f o cs, bothFlags.calls ≠ .load p f o :: cs) ∧ (∃ t, step bothFlags = .next t)
      ∧ bothFlags.compat.loadStore = true ∧ bothFlags.compat.shift = true :=
  ⟨fun _ _ _ _ h => (nomatch h), ⟨_, rfl⟩, rfl, rfl⟩

theorem test_witness_EqualMemoriesAreEqualData :
    Memory.wf [(0x300, 0x42)] ∧ ∀ a, Memory.read [(0x300, 0x42)] a = Memory.read [(0x300, 0x42)] a :=
  ⟨by decide, fun _ => rfl⟩

theorem test_witness_HostCallsAreTakenInOrder :
    bothFlags.calls = .step 0 0 :: [] ∧ State.reset.calls = [] := ⟨rfl, rfl⟩

end Sys2Proof.Tests
end

section
/-! SUPPORT. The rules the statements about the state rest on: what the host's ports do to the state (R48 to R51, R54),
what RND draws (R50), and how memory reads, once loaded and as data. -/

namespace Sys2Proof.Machine

/-! ## The host's list of calls (log 1, log 2) -/

theorem State.nextCall_of_cons {s : State} {c : HostCall} {cs : List HostCall} (h : s.calls = c :: cs) :
    s.NextCall c { s with calls := cs } := by
  rw [State.NextCall, State.takeCall, h]

theorem State.nextCall_of_nil {s : State} (h : s.calls = []) :
    s.NextCall (.step (Config.freeKeys s.freeCalls) (Config.freeMillis s.freeCalls))
      { s with freeCalls := s.freeCalls + 1 } := by
  rw [State.NextCall, State.takeCall, h]

/-- A `load` is never free: it comes from the list (log 2). -/
theorem State.NextCall.calls_of_load {s s0 : State} {p f : List Byte} {o : Nat} (h : s.NextCall (.load p f o) s0) :
    s.calls = .load p f o :: s0.calls := by
  rw [State.NextCall, State.takeCall] at h
  split at h <;> cases h
  assumption

theorem dropCall_frame (s : State) (cs : List HostCall) : OnlyListed [.calls] s { s with calls := cs } := by
  intro p hp
  cases p
  case calls => exact absurd (List.mem_singleton_self _) hp
  all_goals rfl

theorem countFreeCall_frame (s : State) : OnlyListed [.freeCalls] s { s with freeCalls := s.freeCalls + 1 } := by
  intro p hp
  cases p
  case freeCalls => exact absurd (List.mem_singleton_self _) hp
  all_goals rfl

/-! ## The step port (R49) -/

/-- Phase 0 passes where no fault is recorded (R110). -/
theorem step_eq_liveStep {s s0 : State} {m : Word} {e : Nat} (h : s.NextCall (.step m e) s0)
    (hf : s.fault = none) : step s = s0.liveStep m e := by
  obtain ⟨hf0, -⟩ := h.fields
  rw [step_eq h, State.transact, State.stepPort, hf0, hf]

/-- A core that does not wait runs an instruction from the sampled state (R110, phases 1 and 2). -/
theorem State.liveStep_of_not_waiting {s : State} (hw : s.waiting = false) (m : Word) (e : Nat) :
    s.liveStep m e = (s.sample m).runInstruction e := by
  rw [State.liveStep, hw]

theorem State.runInstruction_compat {s t : State} {e : Nat} (h : s.runInstruction e = .next t) :
    t.compat = s.compat := by
  rcases State.runInstruction_cases h with ⟨rfl, -⟩ | ⟨v, hv, rfl⟩
  · rfl
  · exact exec_footprint hv .compat id

theorem State.liveStep_compat {s t : State} {m : Word} {e : Nat} (h : s.liveStep m e = .next t) :
    t.compat = s.compat := by
  rcases State.liveStep_cases h with ⟨-, -, rfl⟩ | ⟨-, u, hu, hrun⟩
  · rfl
  · rw [State.runInstruction_compat hrun]
    rcases hu with rfl | ⟨k, rfl⟩ <;> rfl

/-- No step call writes the compatibility flags (R40). -/
theorem State.stepPort_compat {s t : State} {m : Word} {e : Nat} (h : s.stepPort m e = .next t) :
    t.compat = s.compat := by
  rw [State.stepPort] at h
  split at h
  · cases h
    rfl
  · exact State.liveStep_compat h

/-! ## The configuration port (R51) -/

theorem enableCompat_frame (s : State) (f : CompatFlag) : OnlyListed [.compat] s (s.enableCompat f) := by
  intro p hp
  cases p
  case compat => exact absurd (List.mem_singleton_self _) hp
  all_goals cases f <;> rfl

@[simp] theorem State.enableCompat_loadStore (s : State) (f : CompatFlag) :
    (s.enableCompat f).compat.loadStore = (s.compat.loadStore || f = .loadStore) := by
  cases f <;> simp [State.enableCompat]

@[simp] theorem State.enableCompat_shift (s : State) (f : CompatFlag) :
    (s.enableCompat f).compat.shift = (s.compat.shift || f = .shift) := by
  cases f <;> simp [State.enableCompat]

/-! ## The random byte (R50, log 3) -/

theorem State.rnd_of_cons {s : State} {r : Byte} {rest : List Byte} (h : s.random = r :: rest) : s.rnd = r := by
  rw [State.rnd, h, List.headD_cons]

theorem State.rnd_of_nil {s : State} (h : s.random = []) : s.rnd = Config.freeRandom s.freeDraws := by
  rw [State.rnd, h, List.headD_nil]

@[simp] theorem State.consumeRnd_freeDraws (s : State) :
    s.consumeRnd.freeDraws = if s.random.isEmpty then s.freeDraws + 1 else s.freeDraws := rfl

/-! ## The construction port (R48, R60, R261) -/

theorem Memory.wf_nil : Memory.wf [] := ⟨.nil, fun _ hc => nomatch hc⟩

theorem loadAdmitted_iff {program font : List Byte} {o : Nat} :
    loadAdmitted program font o = true ↔ ImagesFit program font o := by
  simp only [loadAdmitted, ImagesFit, Bool.and_eq_true, Bool.or_eq_true, decide_eq_true_eq, and_assoc]

/-- What any address reads as after an admitted `load`. -/
theorem read_loadedMemory {program font : List Byte} {o : Nat} (h : ImagesFit program font o) (a : Nat) :
    (loadedMemory program font o).read a =
      if 0x200 ≤ a ∧ a < 0x200 + program.length then program.getD (a - 0x200) 0
      else if o ≤ a ∧ a < o + font.length then font.getD (a - o) 0 else 0 := by
  obtain ⟨hp, hf, -⟩ := h
  have hp' : Config.progBase + program.length ≤ Config.memSize := by
    simp only [Config.progBase, Config.memSize]
    omega
  rw [loadedMemory, Memory.read_storeBytes (Memory.storeBytes_wf Memory.wf_nil font hf) program hp',
    Memory.read_storeBytes Memory.wf_nil font hf]
  split_ifs
  · exact (List.getD_eq_getElem _ _ _).symm
  · exact (List.getD_eq_getElem _ _ _).symm
  · rfl

theorem reset_resetValues : State.reset.ResetValues where
  regs r := by simp [State.reg, State.reset]
  index := rfl
  sp := rfl
  ip := rfl
  slots k hk := by
    have : 0 ≠ k.val := fun h => hk (Fin.ext h.symm)
    simp [State.reset, this]
  delay := rfl
  sound := rfl
  pixels x y := by simp [State.pixel, State.reset]
  loadStore := rfl
  shift := rfl
  waiting := rfl
  waitReg := rfl
  keys := rfl
  acc := rfl
  beep := rfl
  fault := rfl

/-- `load` of images that fit gives the reset values, the two images and the font's offset, and keeps the calls to come. -/
theorem State.load_of_imagesFit (s : State) {program font : List Byte} {o : Nat} (h : ImagesFit program font o) :
    ∃ t, s.load program font o = .next t ∧ t.ResetValues ∧ t.fontOffset = o ∧ t.calls = s.calls
      ∧ t.mem = loadedMemory program font o :=
  ⟨_, if_pos (loadAdmitted_iff.mpr h), { reset_resetValues with }, rfl, rfl, rfl⟩

/-! ## Canonical memory as data (log 12) -/

/-- A canonical memory lists exactly the addresses that do not read as the fill, each with what it reads as. -/
theorem Memory.mem_iff_read {m : Memory} (h : m.wf) (a : Nat) (v : Byte) :
    (a, v) ∈ m ↔ m.read a = v ∧ v ≠ Config.memFill := by
  induction m with
  | nil => exact ⟨(nomatch ·), fun ⟨hr, hv⟩ => absurd hr.symm hv⟩
  | cons d m ih =>
    obtain ⟨b, w⟩ := d
    have hlow : ∀ c ∈ m, b < c.1 := (List.pairwise_cons.mp h.1).1
    have hw : w ≠ Config.memFill := (h.2 _ List.mem_cons_self).1
    rw [List.mem_cons, ih (Memory.wf_tail h), Memory.read_cons, Prod.mk.injEq]
    by_cases hab : a = b
    · subst hab
      have hfill : Memory.read m a = Config.memFill := Memory.read_below hlow
      rw [if_pos rfl, hfill]
      constructor
      · rintro (⟨-, rfl⟩ | ⟨rfl, hv⟩)
        · exact ⟨rfl, hw⟩
        · exact absurd rfl hv
      · rintro ⟨rfl, -⟩
        exact .inl ⟨rfl, rfl⟩
    · rw [if_neg (Ne.symm hab)]
      exact or_iff_right fun hd => hab hd.1

/-- Canonical memories with the same cells are the same list: rising addresses leave only one order. -/
theorem Memory.eq_of_mem_iff {m m' : Memory} (h : m.wf) (h' : m'.wf) (hmem : ∀ c, c ∈ m ↔ c ∈ m') : m = m' :=
  have : Std.Irrefl fun p q : Host.Cell => p.1 < q.1 := ⟨fun p => Nat.lt_irrefl p.1⟩
  have : Std.Antisymm fun p q : Host.Cell => p.1 < q.1 := ⟨fun _ _ hpq hqp => absurd hqp (Nat.lt_asymm hpq)⟩
  List.Pairwise.eq_of_mem_iff h.1 h'.1 hmem

end Sys2Proof.Machine
end

section
/-! SUPPORT. The statements about the state that this family settles. -/

open Sys2Proof Sys2Proof.Machine

/-- Settles O39: the state after phase 1 is the sampled one, and the fetch checks its two addresses after the tick. -/
theorem fetchOffTheEndRaisesMemoryFault : Obligations.FetchOffTheEndRaisesMemoryFault := by
  intro s s0 m e hc hf hw hip
  obtain ⟨-, hw0, -, hip0, -⟩ := hc.fields
  have hout : ¬ (s0.sample m).ip.toNat + 2 ≤ Config.memSize := by
    rw [State.sample_ip, hip0, Config.memSize]
    omega
  refine ⟨s0.sample m, rfl, rfl, sample_frame s0 m, _, ?_, rfl, rfl, raise_frame _ _⟩
  rw [step_eq_liveStep hc hf, State.liveStep_of_not_waiting (hw0.trans hw), State.runInstruction_faults e hout,
    State.sample_ip, hip0]

/-- Settles O46, by what `load` answers and what each address of the loaded memory reads as. -/
theorem loadEstablishesTheResetState : Obligations.LoadEstablishesTheResetState := by
  intro s cs program font o hc hfit
  obtain ⟨t, hload, hreset, hoffset, hcalls, hmem⟩ := State.load_of_imagesFit { s with calls := cs } hfit
  have ⟨_, _, hdisjoint⟩ := hfit
  refine ⟨t, (step_eq (State.nextCall_of_cons hc)).trans hload, hreset, hoffset, hcalls, fun k hk => ?_, fun k hk => ?_,
    fun a hfont hprogram => ?_⟩
  · rw [State.readByte, hmem, read_loadedMemory hfit, if_neg (by omega), if_pos (by omega), Nat.add_sub_cancel_left]
  · rw [State.readByte, hmem, read_loadedMemory hfit, if_pos (by omega), Nat.add_sub_cancel_left]
  · rw [State.readByte, hmem, read_loadedMemory hfit, if_neg hprogram, if_neg hfont]

/-- Settles O53: the registers of an instruction's footprint are those it may write. -/
theorem registersChangeOnlyByTheirWriters : Obligations.RegistersChangeOnlyByTheirWriters := by
  intro i s t r h hchanged
  by_contra hr
  exact hchanged (exec_footprint h (.reg r) hr)

/-- Settles O55: no footprint has a part of the host's. -/
theorem instructionsNeverTouchTheHostsState : Obligations.InstructionsNeverTouchTheHostsState := by
  intro i s t h p hp
  refine exec_footprint h p ?_
  simp only [List.mem_cons, List.not_mem_nil, or_false] at hp
  rcases hp with rfl | rfl | rfl | rfl | rfl | rfl | rfl <;> exact id

/-- Settles O56: the slots of an instruction's footprint lie at the stack pointer or above. -/
theorem savedReturnAddressesAreKept : Obligations.SavedReturnAddressesAreKept := by
  intro i s t h k hk
  exact exec_footprint h (.slot k) fun ⟨hle, _⟩ => absurd hk (not_lt.mpr hle)

/-- Settles O57: a step call keeps both flags, `enableCompat` only raises them, and no other call but `load` is left. -/
theorem compatFlagsAreNeverCleared : Obligations.CompatFlagsAreNeverCleared := by
  intro s t hload h
  obtain ⟨c, s0, hc⟩ : ∃ c s0, s.NextCall c s0 := ⟨_, _, rfl⟩
  have hcompat : s0.compat = s.compat := hc.frame .compat (by simp)
  rw [step_eq hc] at h
  rw [← hcompat]
  cases c with
  | step m e =>
    rw [State.stepPort_compat h]
    exact ⟨id, id⟩
  | enableCompat f =>
    cases h
    simp +contextual
  | load p f o => exact absurd hc.calls_of_load (hload p f o s0.calls)

/-- Settles O58: what a canonical memory reads as fixes its cells, and their rising addresses fix their order. -/
theorem equalMemoriesAreEqualData : Obligations.EqualMemoriesAreEqualData := by
  intro m m' h h' hread
  refine Memory.eq_of_mem_iff h h' fun ⟨a, v⟩ => ?_
  rw [Memory.mem_iff_read h, Memory.mem_iff_read h', hread]

/-- Settles O25: the byte is drawn first, and then written under the mask. -/
theorem rndMasksOneRandomByte : Obligations.RndMasksOneRandomByte := by
  intro x nn s
  refine ⟨s.consumeRnd.setReg x (s.rnd &&& nn), rfl, fun r rest hr => ?_, fun hnil => ?_, ?_⟩
  · simp [State.rnd_of_cons hr, hr]
  · simp [State.rnd_of_nil hnil, hnil]
  · exact OnlyChanges.trans ((consumeRnd_frame s).mono (by simp)) ((setReg_frame _ _ _).mono (by simp))

/-- Settles O45: after the call is taken off the list, the port writes the flags alone. -/
theorem enableCompatSetsOneFlag : Obligations.EnableCompatSetsOneFlag := by
  intro s cs f hc
  refine ⟨State.enableCompat { s with calls := cs } f, step_eq (State.nextCall_of_cons hc),
    enableCompat_frame _ f .calls (by simp), ?_, ?_,
    OnlyChanges.trans ((dropCall_frame s cs).mono (by simp)) ((enableCompat_frame _ f).mono (by simp))⟩
  · rintro rfl
    simp
  · rintro rfl
    simp

/-- Settles O48. -/
theorem resetHoldsTheResetValues : Obligations.ResetHoldsTheResetValues :=
  ⟨reset_resetValues, rfl, Memory.read_nil⟩

/-- Settles O52: at reset nothing is listed in memory, nothing accumulated and no fault recorded. -/
theorem invariantAtReset : Obligations.InvariantAtReset where
  memory := Memory.wf_nil
  accumulator := Nat.zero_le 16
  font := Nat.zero_le Config.memSize
  faults := trivial

/-- Settles O59, by the two cases of the host's list. -/
theorem hostCallsAreTakenInOrder : Obligations.HostCallsAreTakenInOrder := fun s =>
  ⟨fun _ cs hc => ⟨_, State.nextCall_of_cons hc, rfl, dropCall_frame s cs⟩,
    fun hnil => ⟨_, _, _, State.nextCall_of_nil hnil, rfl, countFreeCall_frame s⟩⟩

end

section
/-! SUPPORT. The faulting side of a checked access (R74). -/

namespace Sys2Proof.Machine

/-- An access that reaches past the end of memory faults at the lowest such address, whatever its effect would have been
(R74, D6). -/
theorem checked_faultsAt {s effect : State} {base n : Nat} (hn : 0 < n) (hout : Config.memSize < base + n) :
    FaultsAt (max base Config.memSize) s (checked s base n effect) := by
  have hbad : ¬ (n = 0 ∨ base + n ≤ Config.memSize) := by omega
  rw [checked_eq, if_neg hbad]
  exact ⟨_, rfl, State.raise_fault .., State.raise_result .., raise_frame _ _⟩

end Sys2Proof.Machine
end

section
/-! SUPPORT. The statement about the memory instructions that reach past the end of memory. -/

open Sys2Proof Sys2Proof.Machine

/-- Settles O35: each of the four instructions is one checked access at `I`. -/
theorem outOfRangeAccessRaisesMemoryFault : Obligations.OutOfRangeAccessRaisesMemoryFault := by
  intro s
  refine ⟨fun x hout => ?ldB, fun x hout => ?storeRegs, fun x hout => ?loadRegs, fun x y n hn hout => ?drw⟩
  case ldB => exact checked_faultsAt (Nat.succ_pos 2) hout
  case storeRegs => exact checked_faultsAt (Nat.succ_pos x.val) hout
  case loadRegs => exact checked_faultsAt (Nat.succ_pos x.val) hout
  case drw => exact checked_faultsAt hn hout

end

section
/-! SUPPORT. What the statements of the encoding family rest on: the decoder after the encoder, the words that each row of
the opcode map selects, and the encoder after the decoder (R90 to R96). -/

namespace Sys2Proof

/-! ## From an instruction to its word and back -/

open Laws.RoundTrip in
/-- The decoder reads back every well-formed instruction (R92 to R96). -/
theorem decodeWord_encodeWord : ∀ i : Instr, i.wellFormed = true → decodeWord (encodeWord i) = i
  | .cls => cls
  | .ret => ret
  | .sys nnn => sys nnn
  | .jp nnn => jp nnn
  | .call nnn => call nnn
  | .seImm x nn => seImm x nn
  | .sneImm x nn => sneImm x nn
  | .seReg x y => seReg x y
  | .ldImm x nn => ldImm x nn
  | .addImm x nn => addImm x nn
  | .ldReg x y => ldReg x y
  | .orReg x y => orReg x y
  | .andReg x y => andReg x y
  | .xorReg x y => xorReg x y
  | .addReg x y => addReg x y
  | .subReg x y => subReg x y
  | .shr x y => shr x y
  | .subn x y => subn x y
  | .shl x y => shl x y
  | .sneReg x y => sneReg x y
  | .ldI nnn => ldI nnn
  | .jpV0 nnn => jpV0 nnn
  | .rnd x nn => rnd x nn
  | .drw x y n => drw x y n
  | .skp x => skp x
  | .sknp x => sknp x
  | .ldVxDT x => ldVxDT x
  | .ldVxK x => ldVxK x
  | .ldDTVx x => ldDTVx x
  | .ldSTVx x => ldSTVx x
  | .addI x => addI x
  | .ldF x => ldF x
  | .ldB x => ldB x
  | .storeRegs x => storeRegs x
  | .loadRegs x => loadRegs x
  | .unrecognized w => unrecognized w

/-- The decoder takes one word off a list of bytes (R72, R90). -/
theorem decode_bytesOfWord (w : Word) (rest : List Byte) : decode (bytesOfWord w ++ rest) = .ok (decodeWord w, rest) := by
  have h : decode (bytesOfWord w ++ rest) =
      .ok (decodeWord (wordOfBytes (w.extractLsb 15 8) (w.extractLsb 7 0)), rest) := rfl
  rw [h, wordOfBytes_bytesOfWord]

/-! ## The rows of the opcode map (R95) -/

section selection

variable (p w : Word)

theorem selectedBy_F000 :
    OpRow.selectedBy ⟨p, 0xF000#16⟩ w ↔ (fieldF w).toNat = p.toNat / 4096 ∧ p.toNat % 4096 = 0 := by
  have hw : (w &&& 0xF000#16).toNat = _ := and_F000 w
  change w &&& 0xF000#16 = p ↔ _
  rw [← BitVec.toNat_inj, hw, fieldF_toNat]
  omega

theorem selectedBy_F00F :
    OpRow.selectedBy ⟨p, 0xF00F#16⟩ w ↔ (fieldF w).toNat = p.toNat / 4096 ∧ (fieldN w).val = p.toNat % 4096 := by
  have hw : (w &&& 0xF00F#16).toNat = _ := and_F00F w
  change w &&& 0xF00F#16 = p ↔ _
  rw [← BitVec.toNat_inj, hw, fieldF_toNat, fieldN_val]
  omega

theorem selectedBy_F0FF :
    OpRow.selectedBy ⟨p, 0xF0FF#16⟩ w ↔ (fieldF w).toNat = p.toNat / 4096 ∧ (fieldNN w).toNat = p.toNat % 4096 := by
  have hw : (w &&& 0xF0FF#16).toNat = _ := and_F0FF w
  change w &&& 0xF0FF#16 = p ↔ _
  rw [← BitVec.toNat_inj, hw, fieldF_toNat, fieldNN_toNat]
  omega

end selection

theorem opRow_mem_opcodeMap (i : Instr) : i.opRow ∈ opcodeMap := by
  cases i <;> simp [Instr.opRow, opcodeMap, opcodeMapLow, opcodeMapMid, opcodeMapHigh]

theorem opRow_selectedBy_encodeWord (i : Instr) : i.opRow.selectedBy (encodeWord i) := by
  cases i
  case cls | ret => rfl
  case unrecognized w => exact BitVec.and_zero
  all_goals simp [Instr.opRow, encodeWord, selectedBy_F000, selectedBy_F00F, selectedBy_F0FF]

/-! ## From a word to its instruction and back -/

section formats

variable {w : Word} {f : BitVec 4}

/-- A word is laid out again from its family and its address; likewise, below, in the other two layouts (R92). -/
theorem formatA12_fields (hf : (fieldF w).toNat = f.toNat) : formatA12 f (fieldNNN w) = w := by
  apply BitVec.eq_of_toNat_eq
  rw [formatA12_toNat, ← hf, fieldF_toNat, fieldNNN_toNat]
  omega

theorem formatRI_fields {nn : Byte} (hf : (fieldF w).toNat = f.toNat) (hn : (fieldNN w).toNat = nn.toNat) :
    formatRI f (fieldX w) nn = w := by
  apply BitVec.eq_of_toNat_eq
  rw [formatRI_toNat, ← hf, ← hn, fieldF_toNat, fieldX_val, fieldNN_toNat]
  omega

theorem formatRRN_fields {n : Fin 16} (hf : (fieldF w).toNat = f.toNat) (hn : (fieldN w).val = n.val) :
    formatRRN f (fieldX w) (fieldY w) n = w := by
  apply BitVec.eq_of_toNat_eq
  rw [formatRRN_toNat, ← hf, ← hn, fieldF_toNat, fieldX_val, fieldY_val, fieldN_val]
  omega

end formats

theorem extractLsb_fieldNNN (w : Word) : (fieldNNN w).extractLsb 7 0 = fieldNN w := by
  apply BitVec.eq_of_toNat_eq
  rw [BitVec.extractLsb_toNat, fieldNNN_toNat, fieldNN_toNat]
  omega

/-- The instruction is a well-formed one whose word is `w`. -/
structure Instr.StandsFor (i : Instr) (w : Word) : Prop where
  wellFormed : i.wellFormed = true
  encodes : encodeWord i = w

/-- CLS and RET leave the word's bits 11:8 out, SYS keeps them (R94, D4). -/
theorem decodeFamily0_cases {w : Word} (h : (fieldF w).toNat = 0x0) :
    (decodeFamily0 w = .cls ∨ decodeFamily0 w = .ret) ∧ encodeWord (decodeFamily0 w) = w &&& 0xF0FF
    ∨ decodeFamily0 w = .sys (fieldNNN w) ∧ (decodeFamily0 w).StandsFor w := by
  rw [decodeFamily0]
  split
  case h_1 hn => exact .inl ⟨.inl rfl, ((selectedBy_F0FF 0xE0 w).mpr ⟨h, hn⟩).symm⟩
  case h_2 hn => exact .inl ⟨.inr rfl, ((selectedBy_F0FF 0xEE w).mpr ⟨h, hn⟩).symm⟩
  case h_3 hE0 hEE =>
    refine .inr ⟨rfl, ?_, formatA12_fields h⟩
    simp only [Instr.wellFormed, sysAddress, extractLsb_fieldNNN, Bool.and_eq_true, bne_iff_ne]
    exact ⟨fun he => hE0 (congrArg BitVec.toNat he), fun he => hEE (congrArg BitVec.toNat he)⟩

theorem decodeFamily8_standsFor {w : Word} (h : (fieldF w).toNat = 0x8) : (decodeFamily8 w).StandsFor w := by
  rw [decodeFamily8]
  split
  case h_10 =>
    refine ⟨(unrecognizedWord_iff w).mpr (.inr (.inl ⟨h, ?_⟩)), rfl⟩
    have := (fieldN w).isLt
    simp only [List.mem_cons, List.not_mem_nil, or_false, imp_false] at *
    omega
  all_goals exact ⟨rfl, formatRRN_fields h ‹_›⟩

theorem decodeFamilyE_standsFor {w : Word} (h : (fieldF w).toNat = 0xE) : (decodeFamilyE w).StandsFor w := by
  rw [decodeFamilyE]
  split
  case h_3 =>
    refine ⟨(unrecognizedWord_iff w).mpr (.inr (.inr (.inl ⟨h, ?_⟩))), rfl⟩
    simp only [List.mem_cons, List.not_mem_nil, or_false, imp_false] at *
    omega
  all_goals exact ⟨rfl, formatRI_fields h ‹_›⟩

theorem decodeFamilyF_standsFor {w : Word} (h : (fieldF w).toNat = 0xF) : (decodeFamilyF w).StandsFor w := by
  rw [decodeFamilyF]
  split
  case h_10 =>
    refine ⟨(unrecognizedWord_iff w).mpr (.inr (.inr (.inr ⟨h, ?_⟩))), rfl⟩
    simp only [List.mem_cons, List.not_mem_nil, or_false, imp_false] at *
    omega
  all_goals exact ⟨rfl, formatRI_fields h ‹_›⟩

theorem decodeWord_of_family0 {w : Word} (h : (fieldF w).toNat = 0x0) : decodeWord w = decodeFamily0 w := by
  simp only [decodeWord, h]

theorem decodeWord_standsFor {w : Word} (hF : (fieldF w).toNat ≠ 0x0) : (decodeWord w).StandsFor w := by
  rw [decodeWord]
  split
  case h_1 h => exact absurd h hF
  case h_2 h | h_3 h | h_11 h | h_12 h => exact ⟨rfl, formatA12_fields h⟩
  case h_4 h | h_5 h | h_7 h | h_8 h | h_13 h => exact ⟨rfl, formatRI_fields h rfl⟩
  case h_6 h | h_10 h =>
    split_ifs with hn
    · exact ⟨rfl, formatRRN_fields h (congrArg Fin.val hn)⟩
    · exact ⟨(unrecognizedWord_iff w).mpr (.inl ⟨by omega, fun hz => hn (Fin.ext hz)⟩), rfl⟩
  case h_9 h => exact decodeFamily8_standsFor h
  case h_14 h => exact ⟨rfl, formatRRN_fields h rfl⟩
  case h_15 h => exact decodeFamilyE_standsFor h
  case h_16 =>
    refine decodeFamilyF_standsFor ?_
    have := (fieldF w).isLt
    simp only [imp_false] at *
    omega

/-- What any word decodes to: CLS or RET, whose word leaves bits 11:8 out, or an instruction that stands for the word. -/
theorem decodeWord_cases (w : Word) :
    (decodeWord w = .cls ∨ decodeWord w = .ret) ∧ encodeWord (decodeWord w) = w &&& 0xF0FF
    ∨ (decodeWord w).StandsFor w := by
  by_cases hF : (fieldF w).toNat = 0
  · rw [decodeWord_of_family0 hF]
    exact (decodeFamily0_cases hF).imp_right And.right
  · exact .inr (decodeWord_standsFor hF)

/-- The words of CLS and RET have 0 in bits 11:8 (log 9). -/
theorem encodeWord_and_F0FF {i : Instr} (h : i = .cls ∨ i = .ret) : encodeWord i &&& 0xF0FF = encodeWord i := by
  rcases h with rfl | rfl <;> rfl

/-! ## The priorities of the rows (R95) -/

theorem opRow_decodeWord_selectedBy (w : Word) : (decodeWord w).opRow.selectedBy w := by
  rcases decodeWord_cases w with ⟨hi | hi, he⟩ | h
  · rw [hi] at he ⊢
    exact he.symm
  · rw [hi] at he ⊢
    exact he.symm
  · have := opRow_selectedBy_encodeWord (decodeWord w)
    rwa [h.encodes] at this

/-- A word that a row selects decodes to an instruction of that row, where the row is neither SYS's nor the catch-all,
the two whose pattern is 0. -/
theorem opRow_decodeWord_of_selectedBy {r : OpRow} {w : Word} (hr : r ∈ opcodeMap) (hp : r.pattern ≠ 0)
    (hs : r.selectedBy w) : (decodeWord w).opRow = r := by
  simp only [opcodeMap, opcodeMapLow, opcodeMapMid, opcodeMapHigh, List.cons_append, List.nil_append] at hr
  fin_cases hr
  all_goals simp [selectedBy_F000, selectedBy_F00F, selectedBy_F0FF] at hp hs
  all_goals simp [decodeWord, decodeFamily0, decodeFamily8, decodeFamilyE, decodeFamilyF, hs, Instr.opRow]

theorem row_of_pattern_zero : ∀ r ∈ opcodeMap, r.pattern = 0 → r = ⟨0x0000, 0xF000⟩ ∨ r = ⟨0x0000, 0x0000⟩ := by
  decide

/-- In family 0 the row of SYS gives way to those of CLS and RET. -/
theorem sysRow_priority {w : Word} (hs : OpRow.selectedBy ⟨0x0000, 0xF000⟩ w) :
    ⟨0x0000, 0xF000⟩ = (decodeWord w).opRow ∨ 0xF000 < (decodeWord w).opRow.mask.toNat := by
  have hF : (fieldF w).toNat = 0 := ((selectedBy_F000 0 w).mp hs).1
  rw [decodeWord_of_family0 hF]
  rcases decodeFamily0_cases hF with ⟨hi | hi, -⟩ | ⟨hi, -⟩
  · rw [hi]
    exact .inr (by decide)
  · rw [hi]
    exact .inr (by decide)
  · rw [hi]
    exact .inl rfl

/-- The catch-all gives way to every other row. -/
theorem catchAll_priority : ∀ r ∈ opcodeMap, ⟨0x0000, 0x0000⟩ = r ∨ 0 < r.mask.toNat := by
  decide

/-- Of the rows that select a word, the decoded instruction's has the highest priority. -/
theorem opRow_decodeWord_priority {r : OpRow} {w : Word} (hr : r ∈ opcodeMap) (hs : r.selectedBy w) :
    r = (decodeWord w).opRow ∨ r.mask.toNat < (decodeWord w).opRow.mask.toNat := by
  by_cases hp : r.pattern = 0
  · rcases row_of_pattern_zero r hr hp with rfl | rfl
    · exact sysRow_priority hs
    · exact catchAll_priority _ (opRow_mem_opcodeMap _)
  · exact .inl (opRow_decodeWord_of_selectedBy hr hp hs).symm

end Sys2Proof
end

section
/-! SUPPORT. The statements of the encoding family. -/

open Sys2Proof

/-- Settles O1, by the round trip of every constructor and of the two bytes of a word. -/
theorem decodeReadsBackEveryEncoding : Obligations.DecodeReadsBackEveryEncoding := by
  intro i rest h
  rw [encode, decode_bytesOfWord, decodeWord_encodeWord i h]

/-- Settles O2: a word stands for what it decodes to, and CLS and RET are the exceptions. -/
theorem encodeReadsBackEveryDecoding : Obligations.EncodeReadsBackEveryDecoding := by
  intro w
  rcases decodeWord_cases w with ⟨hi, he⟩ | h
  · rw [if_pos hi]
    exact ⟨by rcases hi with hi | hi <;> rw [hi] <;> rfl, he⟩
  · refine ⟨h.wellFormed, ?_⟩
    split_ifs with hi
    · have hmask := encodeWord_and_F0FF hi
      rw [h.encodes] at hmask
      rw [h.encodes, hmask]
    · exact h.encodes

/-- Settles O3. -/
theorem decoderFollowsTheOpcodeMap : Obligations.DecoderFollowsTheOpcodeMap := fun w =>
  ⟨opRow_mem_opcodeMap _, opRow_decodeWord_selectedBy w, fun _ hr hs => opRow_decodeWord_priority hr hs⟩

/-- Settles O4: an unrecognized instruction stands for its own word, and is well-formed only on the listed ones. -/
theorem unrecognizedWordsAreTheListedOnes : Obligations.UnrecognizedWordsAreTheListedOnes := by
  refine fun w => ⟨fun ⟨v, hv⟩ => ?_, fun h => ⟨w, unrecognizedWord_decode h⟩⟩
  rcases decodeWord_cases w with ⟨hi, -⟩ | h
  · simp [hv] at hi
  · rw [hv] at h
    have hvw : v = w := h.encodes
    exact hvw ▸ h.wellFormed

/-- Settles O5. -/
theorem sampleWordsDecode : Obligations.SampleWordsDecode := ⟨by decide, by decide, by decide⟩

end

section
/-! SUPPORT. The rules the statements about the step cycle rest on: every instruction answers a state, what the fetch
reads, what the report answers, and the two ways on from a key-wait (R110 to R116). -/

namespace Sys2Proof.Machine

/-! ## The execute phase (R114) -/

theorem checked_answers_next (s effect : State) (base n : Nat) : ∃ t, checked s base n effect = .next t := by
  rw [checked_eq]
  split_ifs <;> exact ⟨_, rfl⟩

/-- An error of an instruction is a next state too (R233, log 5). -/
theorem exec_answers_next (i : Instr) (s : State) : ∃ t, exec i s = .next t := by
  cases i
  case call nnn =>
    simp only [exec, execCall]
    split_ifs <;> exact ⟨_, rfl⟩
  case ldB | storeRegs | loadRegs | drw => exact checked_answers_next ..
  all_goals exact ⟨_, rfl⟩

/-! ## The fetch (R113) -/

/-- The instruction in the two bytes at `ip` is that of the fetched word (R72). -/
theorem State.decodeWord_fetchWord {s : State} {i : Instr}
    (h : decode [s.readByte s.ip.toNat, s.readByte (s.ip.toNat + 1)] = .ok (i, [])) : decodeWord s.fetchWord = i := by
  cases h
  rfl

@[simp] theorem State.sample_fetchWord (s : State) (m : Word) : (s.sample m).fetchWord = s.fetchWord := rfl

theorem State.NextCall.fetchWord {s s0 : State} {c : HostCall} (h : s.NextCall c s0) : s0.fetchWord = s.fetchWord := by
  obtain ⟨-, -, -, hip, -, hmem, -⟩ := h.fields
  simp only [State.fetchWord, State.readByte, hip, hmem]

/-! ## The report (R116) -/

theorem State.report_result_of_running {s : State} (h : s.fault = none) :
    s.report.result = .ok (decide (4096 ≤ s.ip.toNat)) := by
  rw [State.report_result, h]
  rfl

theorem State.report_result_of_fault {s : State} {c : FatalError} (h : s.fault = some c) :
    s.report.result = s.result := by
  rw [State.report_result, h]

/-! ## The key-wait (R111) -/

theorem State.liveStep_of_no_key {s : State} (hw : s.waiting = true) (e : Nat) :
    s.liveStep 0 e = .next ((s.sample 0).setResult (.ok false)) := by
  rw [State.liveStep, hw, lowestKey_eq_none.mpr rfl]

/-- Leaving the wait before the input is sampled comes to the same as leaving it after. -/
theorem State.liveStep_endWait {s : State} {m : Word} {k : Reg} (hw : s.waiting = true) (hk : lowestKey m = some k)
    (e : Nat) : (s.endWait k).liveStep m e = s.liveStep m e := by
  rw [State.liveStep_of_not_waiting (State.endWait_waiting s k), State.liveStep, hw, hk]
  rfl

/-- The end of a key-wait leaves the host's list of calls alone. -/
theorem State.NextCall.endWait {s s0 : State} {c : HostCall} (h : s.NextCall c s0) (k : Reg) :
    (s.endWait k).NextCall c (s0.endWait k) := by
  rw [State.NextCall, State.takeCall] at h ⊢
  rw [State.endWait_calls]
  split at h <;> cases h <;> rfl

end Sys2Proof.Machine
end

section
/-! SUPPORT. The statements of the step cycle. -/

open Sys2Proof Sys2Proof.Machine

/-- Settles O41: the state with the wait ended has the same next call, and leaving the wait commutes with phase 1. -/
theorem keyWaitTakesTheLowestKey : Obligations.KeyWaitTakesTheLowestKey := by
  intro s s0 m e k hc hf hw hheld hlowest
  obtain ⟨-, hw0, -⟩ := hc.fields
  have hk : lowestKey m = some k := lowestKey_eq_some.mpr ⟨hheld, hlowest⟩
  refine ⟨s.endWait k, ?_, State.endWait_waiting s k, endWait_frame s k, ?_⟩
  · rw [State.reg_endWait, if_pos rfl, BitVec.toNat_ofNat]
    omega
  · rw [step_eq_liveStep hc hf, step_eq_liveStep (hc.endWait k) hf, State.liveStep_endWait (hw0.trans hw) hk]

/-- Settles O49: the paused answer and the faulting fetch are excluded, and what is left ends with the report. -/
theorem stepReportsHalted : Obligations.StepReportsHalted := by
  intro s s0 t m e hc hf hlive h ht
  obtain ⟨-, hw0, -⟩ := hc.fields
  rw [step_eq_liveStep hc hf] at h
  rcases State.liveStep_cases h with ⟨hw, hm, -⟩ | ⟨-, u, -, hrun⟩
  · rw [hw0] at hw
    simp [hw, hm] at hlive
  · rcases State.runInstruction_cases hrun with ⟨rfl, -⟩ | ⟨v, -, rfl⟩
    · cases ht
    · exact State.report_result_of_running ht

/-- Settles O8. -/
theorem sysAndUnrecognizedChangeNothing : Obligations.SysAndUnrecognizedChangeNothing :=
  ⟨fun _ _ => rfl, fun _ _ => rfl⟩

/-- Settles O38: the four states are the sampled one, that after tick and advance, the executed and the reported one. -/
theorem stepRunsTheDecodedInstruction : Obligations.StepRunsTheDecodedInstruction := by
  intro s s0 m e i hc hf hw hip hi
  obtain ⟨hf0, hw0, -, hip0, hsp0, -⟩ := hc.fields
  have hin : (s0.sample m).ip.toNat + 2 ≤ Config.memSize := by
    rw [State.sample_ip, hip0, Config.memSize]
    omega
  have hrunning : ((s0.sample m).timerTick e).advanceIp.fault = none := hf0.trans hf
  obtain ⟨v, hv⟩ := exec_answers_next i ((s0.sample m).timerTick e).advanceIp
  have hstep : step s = .next v.report := by
    rw [step_eq_liveStep hc hf, State.liveStep_of_not_waiting (hw0.trans hw), State.runInstruction_fetches e hin,
      State.sample_fetchWord, hc.fetchWord, State.decodeWord_fetchWord hi, hv, reported]
  refine ⟨s0.sample m, ((s0.sample m).timerTick e).advanceIp, v, v.report, ⟨rfl, rfl, sample_frame s0 m⟩, ⟨?_, ?_⟩, hv,
    hstep, report_frame v, State.report_result_of_running, fun c hcause => ?_⟩
  · rw [State.ip_advanceIp, State.timerTick_ip, State.sample_ip, hip0]
  · rw [← hsp0]
    exact advanceIp_frame ((s0.sample m).timerTick e)
  · rw [State.report_result_of_fault hcause]
    exact exec_answers_cause hrunning hv hcause

/-- Settles O40: taking the call, phase 1 and the answer `Ok(false)` are all that a paused step does. -/
theorem keyWaitPausesTheCore : Obligations.KeyWaitPausesTheCore := by
  intro s s0 e hc hf hw
  obtain ⟨-, hw0, -⟩ := hc.fields
  refine ⟨(s0.sample 0).setResult (.ok false), ?_, rfl, rfl, rfl, ?_⟩
  · rw [step_eq_liveStep hc hf, State.liveStep_of_no_key (hw0.trans hw)]
  · exact OnlyChanges.trans (hc.frame.mono (by simp))
      (OnlyChanges.trans ((sample_frame s0 0).mono (by simp)) ((setResult_frame _ _).mono (by simp)))

end

section
/-! SUPPORT. The rules the statements of control flow rest on: what RET and CALL answer with a slot to go to, the targets
of the jumps as numbers, the skip action under its condition, and the frame of a part that is restored (R131 to R143). -/

namespace Sys2Proof.Machine

/-! ## The call/IP stack (R131, R134) -/

theorem exec_ret_of_succ {s : State} {k : Fin 255} (hk : s.sp.val = k.val + 1) : exec .ret s = .next (s.setSp k) := by
  have hdown : s.sp.val - 1 = k.val := by omega
  exact congrArg (fun j => Host.Outcome.next (s.setSp j)) (Fin.ext hdown)

theorem exec_ret_of_zero {s : State} (h0 : s.sp = 0) : exec .ret s = .next s := by
  have hdown : s.sp.val - 1 = s.sp.val := by
    rw [h0]
    rfl
  exact congrArg (fun j => Host.Outcome.next (s.setSp j)) (Fin.ext hdown)

/-- The slot above the caller's is another one. -/
theorem State.ne_sp_of_succ {s : State} {k : Fin 255} (hk : k.val = s.sp.val + 1) : k ≠ s.sp :=
  Fin.ne_of_val_ne (by omega)

/-- CALL with a slot left: one slot up, and the target in it (R134, D8). -/
theorem exec_call_of_succ {s : State} {k : Fin 255} (nnn : Addr12) (hk : k.val = s.sp.val + 1) :
    exec (.call nnn) s = .next ((s.setSp k).setIp (zextAddr nnn)) := by
  have hroom : s.sp.val + 1 ≤ Config.maxSp := hk ▸ Nat.le_of_lt_succ k.isLt
  rw [exec, execCall, dif_pos hroom]
  exact congrArg (fun j => Host.Outcome.next ((s.setSp j).setIp (zextAddr nnn))) (Fin.ext hk.symm)

/-! ## The targets of the jumps (R133, R135) -/

@[simp] theorem zextAddr_toNat (nnn : Addr12) : (zextAddr nnn).toNat = nnn.toNat :=
  BitVec.toNat_setWidth_of_le (by decide)

/-- A 12-bit address and a byte never add up to 65536, so the sum of JP V0 is exact (D14). -/
theorem addr_add_byte_toNat (nnn : Addr12) (v : Byte) :
    (BitVec.ofNat 16 (nnn.toNat + v.toNat)).toNat = nnn.toNat + v.toNat := by
  have := nnn.isLt
  have := v.isLt
  rw [BitVec.toNat_ofNat, Nat.mod_eq_of_lt (by omega)]

/-! ## The skip action (R136) -/

/-- Two bytes are skipped when the condition holds. -/
theorem skipIf_skips_when (s : State) {b : Bool} {c : Prop} [Decidable c] (hb : b = true ↔ c) :
    ∃ t, (.next (s.skipIf b) : Answer) = .next t ∧ t.ip = (if c then s.ip + 2 else s.ip)
      ∧ OnlyListed [.slot s.sp] s t :=
  ⟨s.skipIf b, rfl, by simp only [State.ip_skipIf, hb], skipIf_frame s b⟩

/-- Two bytes are skipped unless the condition holds. -/
theorem skipIf_skips_unless (s : State) {b : Bool} {c : Prop} [Decidable c] (hb : b = true ↔ ¬ c) :
    ∃ t, (.next (s.skipIf b) : Answer) = .next t ∧ t.ip = (if c then s.ip else s.ip + 2)
      ∧ OnlyListed [.slot s.sp] s t := by
  simpa only [ite_not] using skipIf_skips_when s hb

theorem State.keyHeld_iff (s : State) (v : Byte) :
    s.keyHeld v = true ↔ v.toNat ≤ 15 ∧ s.keys.getLsbD v.toNat = true := by
  rw [State.keyHeld, Bool.and_eq_true, decide_eq_true_iff]

/-! ## Frames -/

/-- A listed part that reads as before is out of the frame. -/
theorem OnlyListed.of_same {q : Part} {ps : List Part} {s t : State} (h : OnlyListed (q :: ps) s t)
    (hq : Part.same s t q) : OnlyListed ps s t := by
  intro p hp
  by_cases hpq : p = q
  · exact hpq ▸ hq
  · exact h p (List.not_mem_cons_of_ne_of_not_mem hpq hp)

/-- A frame may take more parts. -/
theorem OnlyListed.of_subset {ps qs : List Part} {s t : State} (h : OnlyListed ps s t) (hsub : ps ⊆ qs) :
    OnlyListed qs s t := h.mono fun _ hp => hsub hp

end Sys2Proof.Machine
end

section
/-! SUPPORT. The statements of control flow. -/

open Sys2Proof Sys2Proof.Machine

/-- Settles O7: RET moves the stack pointer alone, and `ip` is what it then points to. -/
theorem retReturnsToTheCallersSlot : Obligations.RetReturnsToTheCallersSlot := fun s =>
  ⟨fun k hk => ⟨s.setSp k, exec_ret_of_succ hk, State.setSp_sp s k, State.setSp_ip s k, setSp_frame s k⟩,
    exec_ret_of_zero⟩

/-- Settles O10: the target goes into slot `k`, which is not the caller's. -/
theorem callPushesTheReturnAddress : Obligations.CallPushesTheReturnAddress := by
  intro nnn s k hk
  refine ⟨(s.setSp k).setIp (zextAddr nnn), exec_call_of_succ nnn hk, rfl, ?_, ?_, ?_⟩
  · rw [State.ip_setIp, zextAddr_toNat]
  · rw [State.stack_setIp, State.setSp_sp, if_neg (State.ne_sp_of_succ hk)]
    rfl
  · exact OnlyChanges.trans ((setSp_frame s k).of_subset (by simp)) ((setIp_frame (s.setSp k) _).of_subset (by simp))

/-- Settles O12, by what CALL and RET answer: the callee changes neither the stack pointer nor the caller's slot, so RET
goes back to that slot. -/
theorem callThenReturnRestoresTheCaller : Obligations.CallThenReturnRestoresTheCaller := by
  intro nnn s k hk
  obtain ⟨t, hcall, htsp, -, hsaved, hst⟩ := callPushesTheReturnAddress nnn s k hk
  refine ⟨t, hcall, fun r _ htr => ?_⟩
  rw [htsp] at htr
  have hrsp : r.sp = k := (htr .sp (by simp)).trans htsp
  have hrslot : r.stack[s.sp.val] = s.ip :=
    (htr (.slot s.sp) (by simpa using (State.ne_sp_of_succ hk).symm)).trans hsaved
  obtain ⟨u, hret, husp, huip, hru⟩ := (retReturnsToTheCallersSlot r).1 s.sp (by rw [hrsp, hk])
  have hsu : OnlyListed [.sp, .slot k] s u :=
    OnlyChanges.trans hst (OnlyChanges.trans (htr.of_subset (by simp)) (hru.of_subset (by simp)))
  exact ⟨u, hret, huip.trans hrslot, husp, hsu.of_same husp⟩

/-- Settles O6: the buffer is replaced by the cleared one. -/
theorem clsTurnsEveryPixelOff : Obligations.ClsTurnsEveryPixelOff := fun s =>
  ⟨s.setDisplay Display.clear, rfl, Display.get_clear, setDisplay_frame s Display.clear⟩

/-- Settles O9: widening an address keeps its value. -/
theorem jpReplacesTheInstructionPointer : Obligations.JpReplacesTheInstructionPointer := by
  intro nnn s
  refine ⟨s.setIp (zextAddr nnn), rfl, ?_, setIp_frame s _⟩
  rw [State.ip_setIp, zextAddr_toNat]

/-- Settles O13: the sum fits 16 bits. -/
theorem jpV0AddsRegisterZero : Obligations.JpV0AddsRegisterZero := by
  intro nnn s
  refine ⟨s.setIp (BitVec.ofNat 16 (nnn.toNat + (s.reg 0).toNat)), rfl, ?_, setIp_frame s _⟩
  rw [State.ip_setIp, addr_add_byte_toNat]

/-- Settles O14: both are the skip action, under the comparison and under its negation. -/
theorem immediateSkips : Obligations.ImmediateSkips := fun _ _ s =>
  ⟨skipIf_skips_when s beq_iff_eq, skipIf_skips_unless s bne_iff_ne⟩

/-- Settles O15, as for an immediate: the second operand is a register's value. -/
theorem registerSkips : Obligations.RegisterSkips := fun _ _ s =>
  ⟨skipIf_skips_when s beq_iff_eq, skipIf_skips_unless s bne_iff_ne⟩

/-- Settles O16: SKP's condition is the held key, SKNP's its negation. -/
theorem keySkips : Obligations.KeySkips := by
  intro x s
  have hheld := s.keyHeld_iff (s.reg x)
  have hfree : (!s.keyHeld (s.reg x)) = true ↔ ¬ ((s.reg x).toNat ≤ 15 ∧ s.keys.getLsbD (s.reg x).toNat = true) := by
    rw [← hheld, Bool.not_eq_true', Bool.not_eq_true]
  exact ⟨skipIf_skips_when s hheld, skipIf_skips_unless s hfree⟩

end

section
/-! SUPPORT. The rules the statements about the registers and the ALU rest on: what a register reads as after a result, and
after a result and its flag, and what the results and the flags are as numbers (R149 to R161). -/

namespace Sys2Proof.Machine

/-! ## A result, and a result beside its flag (R150, R152) -/

theorem State.reg_setReg_same (s : State) (x : Reg) (v : Byte) : (s.setReg x v).reg x = v := by
  rw [State.reg_setReg, if_pos rfl]

theorem State.reg_setResultFlag_flagReg (s : State) (x : Reg) (v : Byte) (b : Bool) :
    (s.setResultFlag x v b).reg 15 = flagByte b := by
  rw [State.reg_setResultFlag, if_pos rfl]

/-- The flag, which is written last, covers the result only in `VF` itself (D9). -/
theorem State.reg_setResultFlag_of_ne (s : State) {x : Reg} (hx : x ≠ 15) (v : Byte) (b : Bool) :
    (s.setResultFlag x v b).reg x = v := by
  rw [State.reg_setResultFlag, if_neg hx.symm, if_pos rfl]

/-- A write whose value is known bit by bit. -/
theorem setReg_answers_bits (s : State) (x : Reg) {v : Byte} {bit : Nat → Bool} (hv : ∀ k < 8, v.getLsbD k = bit k) :
    ∃ t, (.next (s.setReg x v) : Answer) = .next t ∧ (∀ k < 8, (t.reg x).getLsbD k = bit k)
      ∧ OnlyListed [.reg x] s t := by
  refine ⟨s.setReg x v, rfl, ?_, setReg_frame s x v⟩
  rwa [State.reg_setReg_same]

/-! ## The flag as a number -/

theorem flagByte_toNat (b : Bool) : (flagByte b).toNat = b.toNat := by
  cases b <;> rfl

theorem flagByte_eq_ite {b : Bool} {c : Prop} [Decidable c] (hb : b = true ↔ c) :
    flagByte b = if c then 1 else 0 := by
  simp only [flagByte, hb]

theorem flagByte_getLsbD_toNat (v : Byte) (k : Nat) : (flagByte (v.getLsbD k)).toNat = v.toNat / 2 ^ k % 2 := by
  rw [flagByte_toNat, ← BitVec.testBit_toNat, Nat.toNat_testBit]

/-! ## Sums and differences (R149, R157 to R159) -/

theorem addResult_toNat (a b : Byte) : (addResult a b).toNat = (a.toNat + b.toNat) % 256 :=
  BitVec.toNat_ofNat ..

theorem addCarry_iff (a b : Byte) : addCarry a b = true ↔ a.toNat + b.toNat > 255 := decide_eq_true_iff

theorem subResult_toNat (a b : Byte) : ((subResult a b).toNat : Int) = ((a.toNat : Int) - (b.toNat : Int)) % 256 := by
  rw [subResult, exactDifference, BitVec.toNat_ofInt]
  exact Int.toNat_of_nonneg (Int.emod_nonneg _ (by decide))

theorem subBorrow_iff (a b : Byte) : subBorrow a b = true ↔ a.toNat < b.toNat := by
  rw [subBorrow, exactDifference, decide_eq_true_iff]
  omega

/-! ## Shifts (R160, R161) -/

theorem State.shiftSource_toNat (s : State) (x y : Reg) :
    (s.shiftSource x y).toNat = if s.compat.shift = true then (s.reg x).toNat else (s.reg y).toNat :=
  apply_ite ..

theorem shrResult_toNat (v : Byte) : (shrResult v).toNat = v.toNat / 2 := by
  rw [shrResult, BitVec.toNat_ushiftRight, Nat.shiftRight_eq_div_pow, Nat.pow_one]

theorem shlResult_toNat (v : Byte) : (shlResult v).toNat = v.toNat * 2 % 256 := by
  rw [shlResult, BitVec.toNat_shiftLeft, Nat.shiftLeft_eq]

theorem flagByte_shrOut_toNat (v : Byte) : (flagByte (shrOut v)).toNat = v.toNat % 2 := by
  rw [shrOut, flagByte_getLsbD_toNat, Nat.pow_zero, Nat.div_one]

/-- Bit 7 is a byte's highest, so nothing is left above it. -/
theorem flagByte_shlOut_toNat (v : Byte) : (flagByte (shlOut v)).toNat = v.toNat / 128 := by
  have := v.isLt
  rw [shlOut, flagByte_getLsbD_toNat]
  omega

end Sys2Proof.Machine
end

section
/-! SUPPORT. The statements about the registers and the ALU. -/

open Sys2Proof Sys2Proof.Machine

/-- Settles O21: the flag is the carry, and covers the sum only in `VF`. -/
theorem addRegistersSetsCarry : Obligations.AddRegistersSetsCarry := by
  intro x y s
  refine ⟨s.setResultFlag x _ _, rfl, fun hx => ?_, ?_, setResultFlag_frame s x _ _⟩
  · rw [s.reg_setResultFlag_of_ne hx, addResult_toNat]
  · rw [s.reg_setResultFlag_flagReg, flagByte_eq_ite (addCarry_iff _ _)]

/-- Settles O22: the flag is the negated borrow. -/
theorem subtractClearsFlagOnBorrow : Obligations.SubtractClearsFlagOnBorrow := by
  intro x y s
  refine ⟨s.setResultFlag x _ _, rfl, fun hx => ?_, ?_, setResultFlag_frame s x _ _⟩
  · rw [s.reg_setResultFlag_of_ne hx, subResult_toNat]
  · have hkept : (!subBorrow (s.reg x) (s.reg y)) = true ↔ ¬ (s.reg x).toNat < (s.reg y).toNat := by
      rw [Bool.not_eq_true', ← Bool.not_eq_true, subBorrow_iff]
    rw [s.reg_setResultFlag_flagReg, flagByte_eq_ite hkept, ite_not]

/-- Settles O23: the operands change places, and the flag is the borrow itself. -/
theorem reverseSubtractSetsFlagOnBorrow : Obligations.ReverseSubtractSetsFlagOnBorrow := by
  intro x y s
  refine ⟨s.setResultFlag x _ _, rfl, fun hx => ?_, ?_, setResultFlag_frame s x _ _⟩
  · rw [s.reg_setResultFlag_of_ne hx, subResult_toNat]
  · rw [s.reg_setResultFlag_flagReg, flagByte_eq_ite (subBorrow_iff _ _)]

/-- Settles O24: both shifts write a result and a flag of the one source. -/
theorem shiftsByOne : Obligations.ShiftsByOne := by
  intro x y s src hsrc
  rw [← s.shiftSource_toNat] at hsrc
  subst hsrc
  constructor
  · refine ⟨s.setResultFlag x _ _, rfl, fun hx => ?_, ?_, setResultFlag_frame s x _ _⟩
    · rw [s.reg_setResultFlag_of_ne hx, shrResult_toNat]
    · rw [s.reg_setResultFlag_flagReg, flagByte_shrOut_toNat]
  · refine ⟨s.setResultFlag x _ _, rfl, fun hx => ?_, ?_, setResultFlag_frame s x _ _⟩
    · rw [s.reg_setResultFlag_of_ne hx, shlResult_toNat]
    · rw [s.reg_setResultFlag_flagReg, flagByte_shlOut_toNat]

/-- Settles O17: the write is to `Vx` alone. -/
theorem loadImmediate : Obligations.LoadImmediate := fun x nn s =>
  ⟨s.setReg x nn, rfl, s.reg_setReg_same x nn, setReg_frame s x nn⟩

/-- Settles O18: the sum goes into `Vx`, and no flag is written beside it. -/
theorem addImmediateWrapsWithoutFlag : Obligations.AddImmediateWrapsWithoutFlag := by
  intro x nn s
  refine ⟨s.setReg x (addResult (s.reg x) nn), rfl, ?_, setReg_frame s x _⟩
  rw [s.reg_setReg_same, addResult_toNat]

/-- Settles O19, as for an immediate: the value is a register's. -/
theorem copyRegister : Obligations.CopyRegister := fun x y s =>
  ⟨s.setReg x (s.reg y), rfl, s.reg_setReg_same x _, setReg_frame s x _⟩

/-- Settles O20: each is one write of `Vx`, whose bits the library's rules for words give. -/
theorem logicalOperationsBitByBit : Obligations.LogicalOperationsBitByBit := fun x _ s =>
  ⟨setReg_answers_bits s x fun _ _ => BitVec.getLsbD_or,
    setReg_answers_bits s x fun _ _ => BitVec.getLsbD_and,
    setReg_answers_bits s x fun _ _ => BitVec.getLsbD_xor⟩

end

section
/-! SUPPORT. The rules the statements about the index register, the timers and the memory instructions rest on: what `I`
is as a number after a write, an access inside memory, what a stored byte reads as, and the decimal digits (R180 to R189). -/

namespace Sys2Proof.Machine

/-! ## The index register (R180, R185, R186) -/

/-- A write of `I` whose value is known as a number. -/
theorem setIndex_answers (s : State) {a : Word} {n : Nat} (ha : a.toNat = n) :
    ∃ t, (.next (s.setIndex a) : Answer) = .next t ∧ t.I.toNat = n ∧ OnlyListed [.index] s t :=
  ⟨s.setIndex a, rfl, ha, setIndex_frame s a⟩

/-- The low nibble is the remainder by 16. -/
theorem State.glyphAddr_toNat (s : State) (v : Byte) :
    (s.glyphAddr v).toNat = (s.fontOffset + 5 * (v.toNat % 16)) % 65536 := by
  have hnibble : (v &&& 0x0F#8).toNat = v.toNat % 16 := Nat.and_two_pow_sub_one_eq_mod v.toNat 4
  rw [State.glyphAddr, hnibble, BitVec.toNat_ofNat]

/-- A bulk access inside memory leaves `I` at 4096 at most, so the sum is exact (R188, R189). -/
theorem State.bulkIndex_toNat {s : State} {x : Reg} (h : s.I.toNat + x.val < 4096) :
    (s.bulkIndex x).toNat = if s.compat.loadStore = true then s.I.toNat else s.I.toNat + x.val + 1 := by
  rw [State.bulkIndex, apply_ite BitVec.toNat, BitVec.toNat_ofNat, Nat.mod_eq_of_lt (by omega)]

/-! ## Accesses inside memory (R74) -/

theorem checked_of_inside {s effect : State} {base n : Nat} (h : base + n ≤ Config.memSize) :
    checked s base n effect = .next effect := by
  rw [checked_eq, if_pos (.inr h)]

/-- The `k`-th byte stored is what the address `k` past the base reads as. -/
theorem State.readByte_storeBytes {s : State} (hw : s.mem.wf) {a : Nat} (bs : List Byte)
    (ha : a + bs.length ≤ Config.memSize) {k : Nat} (hk : k < bs.length) :
    (s.storeBytes a bs).readByte (a + k) = bs[k] := by
  rw [State.readByte, State.storeBytes_mem, Memory.read_storeBytes hw bs ha, dif_pos (by omega)]
  simp only [Nat.add_sub_cancel_left]

/-! ## The decimal digits (R187) -/

@[simp] theorem bcdDigits_length (v : Byte) : (bcdDigits v).length = 3 := rfl

/-- A decimal digit fits a byte. -/
theorem bcdDigits_toNat (v : Byte) :
    (bcdDigits v)[0].toNat = v.toNat / 100 ∧ (bcdDigits v)[1].toNat = v.toNat / 10 % 10
      ∧ (bcdDigits v)[2].toNat = v.toNat % 10 := by
  have := v.isLt
  exact ⟨Nat.mod_eq_of_lt (by omega), Nat.mod_eq_of_lt (by omega), Nat.mod_eq_of_lt (by omega)⟩

/-! ## The registers of a bulk access (R188, R189) -/

theorem lt_regsUpTo_length {x k : Reg} (hk : k ≤ x) : k.val < (regsUpTo x).length := by
  rw [regsUpTo_length]
  exact Nat.lt_succ_of_le hk

/-- Register `k` stands at place `k`. -/
theorem regsUpTo_getElem_self {x k : Reg} (hk : k ≤ x) : (regsUpTo x)[k.val]'(lt_regsUpTo_length hk) = k :=
  Fin.ext (regsUpTo_getElem x k.val (lt_regsUpTo_length hk))

end Sys2Proof.Machine
end

section
/-! SUPPORT. The statements about the index register, the timers, the key wait and the memory instructions. -/

open Sys2Proof Sys2Proof.Machine

/-- Settles O32: the three digits are stored at three addresses that exist. -/
theorem storeDecimalDigits : Obligations.StoreDecimalDigits := by
  intro x s hw hI
  have hin : s.I.toNat + 3 ≤ Config.memSize := hI
  have hread (k : Nat) (hk : k < 3) := congrArg BitVec.toNat (State.readByte_storeBytes hw (bcdDigits (s.reg x)) hin hk)
  obtain ⟨hundreds, tens, units⟩ := bcdDigits_toNat (s.reg x)
  refine ⟨s.storeBytes s.I.toNat (bcdDigits (s.reg x)), checked_of_inside hin, (hread 0 (by decide)).trans hundreds,
    (hread 1 (by decide)).trans tens, (hread 2 (by decide)).trans units, (storeBytes_frame s hw _ _ hin).mono ?_⟩
  rintro p ⟨b, hlo, hhi, rfl⟩
  rw [bcdDigits_length] at hhi
  have hb : b = s.I.toNat ∨ b = s.I.toNat + 1 ∨ b = s.I.toNat + 2 := by omega
  simpa using hb

/-- Settles O33: the bytes stored are the registers' values in their order, and then `I` is written. -/
theorem storeRegistersAtIndex : Obligations.StoreRegistersAtIndex := by
  intro x s hw hI
  have hlen : ((regsUpTo x).map s.reg).length = x.val + 1 := by rw [List.length_map, regsUpTo_length]
  have hin : s.I.toNat + ((regsUpTo x).map s.reg).length ≤ Config.memSize := hlen ▸ hI
  refine ⟨(s.storeBytes s.I.toNat ((regsUpTo x).map s.reg)).setIndex (s.bulkIndex x), checked_of_inside hI,
    fun k hk => ?_, State.bulkIndex_toNat hI,
    OnlyChanges.trans ((storeBytes_frame s hw _ _ hin).mono ?_) ((setIndex_frame _ _).mono (by simp))⟩
  · rw [State.setIndex_readByte, State.readByte_storeBytes hw _ hin (hlen ▸ Nat.lt_succ_of_le hk), List.getElem_map,
      regsUpTo_getElem_self hk]
  · rintro p ⟨b, hlo, hhi, rfl⟩
    rw [hlen] at hhi
    have hoffset : b - s.I.toNat ≤ x.val := by omega
    have hb : s.I.toNat + (b - s.I.toNat) = b := by omega
    exact .inr ⟨⟨b - s.I.toNat, by omega⟩, hoffset, congrArg Part.byte hb.symm⟩

/-- Settles O34: each register takes the byte at its own place, and then `I` is written. -/
theorem loadRegistersFromIndex : Obligations.LoadRegistersFromIndex := by
  intro x s hI
  refine ⟨(s.loadRegsFrom s.I.toNat (regsUpTo x)).setIndex (s.bulkIndex x), checked_of_inside hI, fun k hk => ?_,
    State.bulkIndex_toNat hI,
    OnlyChanges.trans ((loadRegsFrom_frame s x _).mono fun _ => .inr) ((setIndex_frame _ _).mono (by simp))⟩
  have hreg := s.loadRegsFrom_reg s.I.toNat (regsUpTo_nodup x) k.val (lt_regsUpTo_length hk)
  rwa [regsUpTo_getElem_self hk] at hreg

/-- Settles O26: widening an address keeps its value. -/
theorem loadIndex : Obligations.LoadIndex := fun nnn s => setIndex_answers s (zextAddr_toNat nnn)

/-- Settles O27: the write of `Vx` is of the delay timer's value. -/
theorem readDelayTimer : Obligations.ReadDelayTimer := fun x s =>
  ⟨s.setReg x s.DT, rfl, s.reg_setReg_same x s.DT, setReg_frame s x s.DT⟩

/-- Settles O28: entering the wait writes its two parts alone. -/
theorem keyWaitIsEntered : Obligations.KeyWaitIsEntered := fun x s =>
  ⟨s.startWait x, rfl, s.startWait_waiting x, s.startWait_waitReg x, startWait_frame s x⟩

/-- Settles O29: each is one write of its timer. -/
theorem writeTimers : Obligations.WriteTimers := fun x s =>
  ⟨⟨s.setDelay (s.reg x), rfl, s.setDelay_DT _, setDelay_frame s _⟩,
    ⟨s.setSound (s.reg x), rfl, s.setSound_ST _, setSound_frame s _⟩⟩

/-- Settles O30: the sum as a word is the sum modulo 65536 (D15). -/
theorem addToIndex : Obligations.AddToIndex := fun _ s => setIndex_answers s (BitVec.toNat_ofNat ..)

/-- Settles O31, by the glyph's address as a number. -/
theorem fontGlyphAddress : Obligations.FontGlyphAddress := fun x s => setIndex_answers s (s.glyphAddr_toNat (s.reg x))

end

section
/-! SUPPORT. The rules the statements about the display rest on: what one draw does to the covered pixels, the others and
the flag, and that the next draw covers the same pixels (R210 to R213). -/

namespace Sys2Proof.Machine

/-! ## Parts that changed -/

/-- What an instruction has changed lies in its footprint. -/
theorem footprint_of_changed {i : Instr} {s t : State} {p : Part} (h : exec i s = .next t) (hp : ¬ Part.same s t p) :
    footprint i s p := not_imp_comm.mp (exec_footprint h p) hp

/-! ## One draw (R212) -/

/-- The state that DRW answers when its addresses exist: the new buffer first, the flag last (D12). -/
def State.afterDraw (s : State) (x y : Reg) (n : Fin 16) : State :=
  (s.setDisplay (s.drawn x y n).1).setReg flagReg (flagByte (s.drawn x y n).2)

section draw

variable {s : State} {x y : Reg} {n : Fin 16} {px : Fin 64} {py : Fin 32}

theorem exec_drw_of_inside (h : n.val = 0 ∨ s.I.toNat + n.val ≤ Config.memSize) :
    exec (.drw x y n) s = .next (s.afterDraw x y n) := by
  rw [exec, execDrw, checked_eq, if_pos h, State.afterDraw]

@[simp] theorem State.afterDraw_I : (s.afterDraw x y n).I = s.I := rfl

@[simp] theorem State.afterDraw_readByte (a : Nat) : (s.afterDraw x y n).readByte a = s.readByte a := rfl

theorem State.afterDraw_reg_of_ne {r : Reg} (hr : r ≠ 15) : (s.afterDraw x y n).reg r = s.reg r := by
  rw [State.afterDraw, State.reg_setReg, if_neg hr.symm, State.setDisplay_reg]

theorem afterDraw_frame (s : State) (x y : Reg) (n : Fin 16) :
    OnlyChanges (fun p => p = .reg 15 ∨ ∃ px py, p = .pixel px py) s (s.afterDraw x y n) :=
  OnlyChanges.trans ((setDisplay_frame s _).mono fun _ => .inr) ((setReg_frame _ _ _).mono (by simp))

open Classical in
/-- Drawing is an exclusive or with the covered pixels. -/
theorem State.afterDraw_pixel (s : State) (x y : Reg) (n : Fin 16) (px : Fin 64) (py : Fin 32) :
    (s.afterDraw x y n).pixel px py = (s.pixel px py ^^ decide (SpriteCovers s x y n px py)) := by
  have hheight : n.val < 32 := by omega
  have hdraw := (drawSprite_eq (fun r => s.readByte (s.I.toNat + r)) ((s.reg x).toNat % 64) ((s.reg y).toNat % 32) s.pix
    n.val hheight).1 px py
  rwa [decide_eq_decide.mpr (rowsCover_iff_spriteCovers s x y n px py)] at hdraw

theorem State.afterDraw_pixel_of_covers (h : SpriteCovers s x y n px py) :
    (s.afterDraw x y n).pixel px py = !s.pixel px py := by
  simp [State.afterDraw_pixel, h]

theorem State.afterDraw_pixel_of_not_covers (h : ¬ SpriteCovers s x y n px py) :
    (s.afterDraw x y n).pixel px py = s.pixel px py := by
  simp [State.afterDraw_pixel, h]

/-- A draw collides when a covered pixel was on. -/
theorem State.drawn_collides_iff (s : State) (x y : Reg) (n : Fin 16) :
    (s.drawn x y n).2 = true ↔ ∃ px py, SpriteCovers s x y n px py ∧ s.pixel px py = true := by
  have hheight : n.val < 32 := by omega
  simp only [State.drawn, (drawSprite_eq _ _ _ s.pix n.val hheight).2, decide_eq_true_iff, rowsCover_iff_spriteCovers,
    State.pixel_eq]

open Classical in
theorem State.afterDraw_flag (s : State) (x y : Reg) (n : Fin 16) :
    (s.afterDraw x y n).reg 15 = if ∃ px py, SpriteCovers s x y n px py ∧ s.pixel px py = true then 1 else 0 := by
  rw [State.afterDraw, State.reg_setReg_same, flagByte_eq_ite (s.drawn_collides_iff x y n)]

theorem State.afterDraw_flag_eq_one_iff (s : State) (x y : Reg) (n : Fin 16) :
    (s.afterDraw x y n).reg 15 = 1 ↔ ∃ px py, SpriteCovers s x y n px py ∧ s.pixel px py = true := by
  rw [State.afterDraw_flag]
  split_ifs with h <;> simp [h]

/-! ## The draw after it -/

/-- A draw leaves the sprite, and the place of the next draw unless a coordinate is in `VF`. -/
theorem spriteCovers_afterDraw_iff (hx : x ≠ 15) (hy : y ≠ 15) :
    SpriteCovers (s.afterDraw x y n) x y n px py ↔ SpriteCovers s x y n px py := by
  simp only [SpriteCovers, State.afterDraw_I, State.afterDraw_readByte, State.afterDraw_reg_of_ne hx,
    State.afterDraw_reg_of_ne hy]

/-- Flipping a covered pixel twice restores it. -/
theorem State.afterDraw_afterDraw_pixel (hx : x ≠ 15) (hy : y ≠ 15) :
    ((s.afterDraw x y n).afterDraw x y n).pixel px py = s.pixel px py := by
  have hsame := spriteCovers_afterDraw_iff (s := s) (n := n) (px := px) (py := py) hx hy
  by_cases hc : SpriteCovers s x y n px py
  · rw [State.afterDraw_pixel_of_covers (hsame.mpr hc), State.afterDraw_pixel_of_covers hc, Bool.not_not]
  · rw [State.afterDraw_pixel_of_not_covers (mt hsame.mp hc), State.afterDraw_pixel_of_not_covers hc]

/-- The second draw meets a covered pixel on where the first had found it off (log 13). -/
theorem State.afterDraw_afterDraw_flag_eq_one_iff (hx : x ≠ 15) (hy : y ≠ 15) :
    ((s.afterDraw x y n).afterDraw x y n).reg 15 = 1
      ↔ ∃ px py, SpriteCovers s x y n px py ∧ s.pixel px py = false := by
  rw [State.afterDraw_flag_eq_one_iff]
  refine exists_congr fun px => exists_congr fun py => ?_
  rw [spriteCovers_afterDraw_iff hx hy]
  refine and_congr_right fun hc => ?_
  rw [State.afterDraw_pixel_of_covers hc, Bool.not_eq_true']

end draw

end Sys2Proof.Machine
end

section
/-! SUPPORT. The statements about the display and its writers. -/

open Sys2Proof Sys2Proof.Machine

/-- Settles O36: DRW answers the state after the draw, whose pixels, flag and frame are known. -/
theorem drawXorsTheSprite : Obligations.DrawXorsTheSprite := fun x y n s hin =>
  ⟨s.afterDraw x y n, exec_drw_of_inside hin,
    fun _ _ => ⟨State.afterDraw_pixel_of_covers, State.afterDraw_pixel_of_not_covers⟩,
    fun hon => (s.afterDraw_flag x y n).trans (if_pos hon), fun hoff => (s.afterDraw_flag x y n).trans (if_neg hoff),
    afterDraw_frame s x y n⟩

/-- Settles O37: the second draw covers the same pixels, so it flips each of them back. -/
theorem drawTwiceRestoresTheDisplay : Obligations.DrawTwiceRestoresTheDisplay := fun x y n s hx hy hin =>
  ⟨s.afterDraw x y n, (s.afterDraw x y n).afterDraw x y n, exec_drw_of_inside hin, exec_drw_of_inside hin,
    fun _ _ => State.afterDraw_afterDraw_pixel hx hy, State.afterDraw_afterDraw_flag_eq_one_iff hx hy⟩

/-- Settles O54: what has changed lies in the instruction's footprint. -/
theorem displayMemoryAndIndexChangeOnlyByTheirWriters : Obligations.DisplayMemoryAndIndexChangeOnlyByTheirWriters := by
  intro i s t h
  refine ⟨fun ⟨px, py, hpixel⟩ => ?_, fun ⟨a, hbyte⟩ => ?_, fun hindex => ?_⟩
  · exact footprint_of_changed (p := .pixel px py) h hpixel
  · exact footprint_of_changed (p := .byte a) h hbyte
  · exact footprint_of_changed (p := .index) h hindex

end

section
/-! SUPPORT. The rules the statements about errors, timers and the invariant rest on: what the tick does to the two timers
and to `beep`, what a step call and a refused load answer, and what keeps the invariant (R230 to R241). -/

namespace Sys2Proof.Machine

/-! ## The timer tick (R240, R241) -/

/-- 17 ms are the first whole number past one 60 Hz tick (D19). -/
theorem tickFires_iff {acc : Nat} : tickFires acc = true ↔ 17 ≤ acc := by
  rw [tickFires, decide_eq_true_iff]
  omega

theorem tickFires_eq_false_iff {acc : Nat} : tickFires acc = false ↔ acc < 17 := by
  rw [← Bool.not_eq_true, tickFires_iff, Nat.not_le]

/-- Counting down stops at 0, as the subtraction of natural numbers does. -/
theorem countDown_toNat (v : Byte) : (countDown v).toNat = v.toNat - 1 := by
  rw [countDown]
  split_ifs with hv
  · exact BitVec.toNat_sub_of_le hv
  · omega

/-- A positive timer counts down to 0 exactly from 1. -/
theorem countDown_expires (v : Byte) : (decide (0 < v.toNat) && countDown v == 0) = decide (v.toNat = 1) := by
  have hzero : countDown v = 0 ↔ v.toNat - 1 = 0 := by
    rw [← BitVec.toNat_inj, countDown_toNat]
    rfl
  rw [Bool.eq_iff_iff, Bool.and_eq_true, beq_iff_eq, hzero, decide_eq_true_iff, decide_eq_true_iff]
  omega

theorem State.timerTick_beep (s : State) (e : Nat) :
    (s.timerTick e).beep = (s.beep || tickFires (s.acc + e) && decide (s.ST.toNat = 1)) := by
  have hraise : (s.timerTick e).beep =
      if tickFires (s.acc + e) && decide (0 < s.ST.toNat) && countDown s.ST == 0 then true else s.beep := rfl
  rw [hraise, Bool.and_assoc, countDown_expires, Bool.if_true_left, Bool.decide_eq_true, Bool.or_comm]

/-- A tick that does not fire changes the accumulator alone. -/
theorem timerTick_frame_of_lt {s : State} {e : Nat} (h : s.acc + e < 17) : OnlyListed [.acc] s (s.timerTick e) := by
  have hoff := tickFires_eq_false_iff.mpr h
  have hframe : OnlyListed [.delay, .sound, .beep, .acc] s (s.timerTick e) :=
    (timerTick_frame s e).of_subset (by simp)
  refine ((hframe.of_same ?_).of_same ?_).of_same ?_
  · rw [Part.same, State.timerTick_DT, hoff, if_neg Bool.false_ne_true]
  · rw [Part.same, State.timerTick_ST, hoff, if_neg Bool.false_ne_true]
  · rw [Part.same, State.timerTick_beep, hoff, Bool.false_and, Bool.or_false]

/-- "`acc` is at most 16 after every step" (R240), however much time has passed. -/
theorem State.timerTick_acc_le (s : State) (e : Nat) : (s.timerTick e).acc ≤ 16 := by
  rw [State.timerTick_acc]
  split_ifs with hfires
  · exact Nat.zero_le 16
  · exact Nat.le_of_lt_succ (tickFires_eq_false_iff.mp (eq_false_of_ne_true hfires))

/-- Past the tick nothing writes `beep`: no instruction has it in its footprint. -/
theorem State.runInstruction_beep {s t : State} {e : Nat} (h : s.runInstruction e = .next t) :
    t.beep = (s.timerTick e).beep := by
  rcases State.runInstruction_cases h with ⟨rfl, -⟩ | ⟨v, hv, rfl⟩
  · rfl
  · exact exec_footprint hv .beep id

/-! ## Fatal errors (R231, R234) -/

/-- CALL with the stack full (R231, D8). -/
theorem exec_call_of_full {s : State} (nnn : Addr12) (h : s.sp.val = Config.maxSp) :
    exec (.call nnn) s = .next (s.raise .stackOverflow) := by
  have hfull : ¬ s.sp.val + 1 ≤ Config.maxSp := h ▸ Nat.not_succ_le_self _
  rw [exec, execCall, dif_neg hfull]

/-- Phase 0 answers a recorded fault again (R234). -/
theorem State.stepPort_of_fault {s : State} {c : FatalError} (h : s.fault = some c) (m : Word) (e : Nat) :
    s.stepPort m e = .next (s.setResult (.err c)) := by
  rw [State.stepPort, h]

/-! ## What every step answers (R230) -/

theorem State.runInstruction_answers_next (s : State) (e : Nat) : ∃ t, s.runInstruction e = .next t := by
  by_cases hin : s.ip.toNat + 2 ≤ Config.memSize
  · obtain ⟨v, hv⟩ := exec_answers_next (decodeWord s.fetchWord) (s.timerTick e).advanceIp
    exact ⟨v.report, by rw [State.runInstruction_fetches e hin, hv, reported]⟩
  · exact ⟨_, State.runInstruction_faults e hin⟩

theorem State.liveStep_answers_next (s : State) (m : Word) (e : Nat) : ∃ t, s.liveStep m e = .next t := by
  rw [State.liveStep]
  split
  · exact ⟨_, rfl⟩
  · exact State.runInstruction_answers_next _ e
  · exact State.runInstruction_answers_next _ e

theorem State.stepPort_answers_next (s : State) (m : Word) (e : Nat) : ∃ t, s.stepPort m e = .next t := by
  rw [State.stepPort]
  split
  · exact ⟨_, rfl⟩
  · exact s.liveStep_answers_next m e

/-- `load` refuses images that do not fit (R261, log 7). -/
theorem State.load_of_not_imagesFit (s : State) {program font : List Byte} {o : Nat} (h : ¬ ImagesFit program font o) :
    s.load program font o = .refused .loadNotAdmitted := if_neg (mt loadAdmitted_iff.mp h)

/-! ## A true fault (R231 to R233) -/

theorem State.faultConsistent_of_running {s : State} (h : s.fault = none) : s.faultConsistent := by
  rw [State.faultConsistent, h]
  trivial

theorem State.faultConsistent.answered {s : State} {c : FatalError} (h : s.faultConsistent) (hc : s.fault = some c) :
    s.result = .err c := by
  rw [State.faultConsistent, hc] at h
  cases c <;> exact h.1

/-- Writing the answer keeps a recorded fault true when the answer is `Err` of it. -/
theorem State.faultConsistent.setResult {s : State} {r : StepResult} (h : s.faultConsistent)
    (hr : ∀ c, s.fault = some c → r = .err c) : (s.setResult r).faultConsistent := by
  cases hf : s.fault with
  | none => exact State.faultConsistent_of_running hf
  | some c =>
    obtain rfl := hr c hf
    have hsame : s.setResult (.err c) = s := by rw [← h.answered hf]; rfl
    rwa [hsame]

/-- The report writes `Ok` only where no fault is recorded (R116, R233). -/
theorem State.faultConsistent.report {s : State} (h : s.faultConsistent) : s.report.faultConsistent :=
  h.setResult fun c hc => by rw [hc]; exact h.answered hc

/-! ## What keeps the invariant -/

theorem State.NextCall.inv {s s0 : State} {c : HostCall} (h : s.NextCall c s0) (hi : s.Inv) : s0.Inv := by
  rw [← h.rest] at hi
  exact { hi with }

theorem State.Inv.enableCompat {s : State} (h : s.Inv) (f : CompatFlag) : (s.enableCompat f).Inv := by
  cases f <;> exact { h with }

theorem State.Inv.setResult {s : State} {r : StepResult} (h : s.Inv) (hr : ∀ c, s.fault = some c → r = .err c) :
    (s.setResult r).Inv := { h with faults := h.faults.setResult hr }

/-- Phases 3 to 6: the tick bounds the accumulator, and an error that the fetch or the instruction raises is true. -/
theorem State.Inv.runInstruction {s t : State} {e : Nat} (hi : s.Inv) (hf : s.fault = none)
    (h : s.runInstruction e = .next t) : t.Inv := by
  rcases State.runInstruction_cases h with ⟨rfl, -⟩ | ⟨v, hv, rfl⟩
  · exact { memory := hi.memory, accumulator := s.timerTick_acc_le e, font := hi.font,
            faults := ⟨rfl, Nat.le_max_right ..⟩ }
  · obtain ⟨hmem, hfault⟩ := exec_keeps (s := (s.timerTick e).advanceIp) hi.memory hf hv
    have hacc : v.acc = (s.timerTick e).acc := exec_footprint hv .acc id
    have hfont : v.fontOffset = s.fontOffset := exec_footprint hv .fontOffset id
    exact { memory := hmem, accumulator := hacc.trans_le (s.timerTick_acc_le e), font := hfont.trans_le hi.font,
            faults := hfault.report }

theorem State.Inv.liveStep {s t : State} {m : Word} {e : Nat} (hi : s.Inv) (hf : s.fault = none)
    (h : s.liveStep m e = .next t) : t.Inv := by
  have hsample : (s.sample m).Inv := { hi with }
  rcases State.liveStep_cases h with ⟨-, -, rfl⟩ | ⟨-, u, rfl | ⟨k, rfl⟩, hrun⟩
  case inl => exact hsample.setResult fun c hc => absurd (hf.symm.trans hc) nofun
  case inr.inl => exact hsample.runInstruction hf hrun
  case inr.inr =>
    have hend : ((s.sample m).endWait k).Inv := { hsample with }
    exact hend.runInstruction hf hrun

theorem State.Inv.stepPort {s t : State} {m : Word} {e : Nat} (hi : s.Inv) (h : s.stepPort m e = .next t) : t.Inv := by
  cases hf : s.fault with
  | none =>
    rw [State.stepPort, hf] at h
    exact hi.liveStep hf h
  | some c =>
    rw [State.stepPort_of_fault hf] at h
    cases h
    exact hi.setResult fun d hd => congrArg StepResult.err (Option.some.inj (hf.symm.trans hd))

/-- `load` establishes the invariant from any state: the images are inside memory and nothing else is left (R60, R261). -/
theorem State.load_inv {s t : State} {program font : List Byte} {o : Nat} (h : s.load program font o = .next t) :
    t.Inv := by
  by_cases hfit : ImagesFit program font o
  · obtain ⟨u, hload, hreset, hoffset, -, hmem⟩ := s.load_of_imagesFit hfit
    cases hload.symm.trans h
    have ⟨_, hfont, _⟩ := hfit
    exact { memory := hmem ▸ loadedMemory_wf (loadAdmitted_iff.mpr hfit), accumulator := hreset.acc ▸ Nat.zero_le 16,
            font := hoffset ▸ le_of_add_le_left hfont, faults := State.faultConsistent_of_running hreset.fault }
  · rw [s.load_of_not_imagesFit hfit] at h
    cases h

theorem State.Inv.transact {s t : State} {c : HostCall} (hi : s.Inv) (h : s.transact c = .next t) : t.Inv := by
  cases c with
  | step m e => exact hi.stepPort h
  | enableCompat f =>
    cases h
    exact hi.enableCompat f
  | load program font o => exact State.load_inv h

end Sys2Proof.Machine
end

section
/-! SUPPORT. The statements about errors, timers and the invariant. -/

open Sys2Proof Sys2Proof.Machine

/-- Settles O51: taking the call keeps the invariant, and so does each of the three ports. -/
theorem everyStepKeepsTheInvariant : Obligations.EveryStepKeepsTheInvariant := by
  intro s t hi h
  have hc : s.NextCall s.takeCall.1 s.takeCall.2 := rfl
  exact (hc.inv hi).transact h

/-- Settles O43: phase 1 clears `beep`, a paused step ends there, and otherwise only the tick can raise it. -/
theorem beepExactlyWhenTheSoundTimerExpires : Obligations.BeepExactlyWhenTheSoundTimerExpires := by
  intro s s0 t m e hc hf h
  obtain ⟨-, hw0, -, -, -, -, hacc0, -, hST0, -⟩ := hc.fields
  rw [step_eq_liveStep hc hf] at h
  rcases State.liveStep_cases h with ⟨hw, hm, rfl⟩ | ⟨hlive, u, hu, hrun⟩
  · simp [← hw0, hw, hm]
  · have hbeep : u.beep = false := by rcases hu with rfl | ⟨k, rfl⟩ <;> rfl
    have hacc : u.acc = s.acc := by rcases hu with rfl | ⟨k, rfl⟩ <;> exact hacc0
    have hST : u.ST = s.ST := by rcases hu with rfl | ⟨k, rfl⟩ <;> exact hST0
    have hone : s.ST.toNat = 1 ↔ s.ST = 1 := BitVec.toNat_inj (y := 1)
    rw [State.runInstruction_beep hrun, State.timerTick_beep, hbeep, hacc, hST, ← hw0, Bool.false_or, Bool.and_eq_true,
      tickFires, decide_eq_true_iff, decide_eq_true_iff, hone, and_iff_right hlive]

/-- Settles O50: an instruction answers a state even where it raises, and of the ports only `load` can refuse. -/
theorem everyStepAnswersANextState : Obligations.EveryStepAnswersANextState := by
  refine ⟨exec_answers_next, fun s => ?_⟩
  obtain ⟨c, s0, hc⟩ : ∃ c s0, s.NextCall c s0 := ⟨_, _, rfl⟩
  rw [step_eq hc]
  cases c with
  | step m e => exact .inl (s0.stepPort_answers_next m e)
  | enableCompat f => exact .inl ⟨_, rfl⟩
  | load program font o =>
    by_cases hfit : ImagesFit program font o
    · obtain ⟨t, hload, -⟩ := s0.load_of_imagesFit hfit
      exact .inl ⟨t, hload⟩
    · exact .inr ⟨s0.load_of_not_imagesFit hfit, program, font, o, s0.calls, hc.calls_of_load, hfit⟩

/-- Settles O11: CALL answers the entry into the error and nothing more. -/
theorem callOnAFullStackRaisesOverflow : Obligations.CallOnAFullStackRaisesOverflow := fun nnn s hfull =>
  ⟨s.raise .stackOverflow, exec_call_of_full nnn hfull, s.raise_fault _, s.raise_result _, raise_frame s _⟩

/-- Settles O42, by whether the tick fires. -/
theorem timerTickDecrementsAtMostOnce : Obligations.TimerTickDecrementsAtMostOnce := by
  refine fun s e => ⟨fun hlt => ⟨?_, timerTick_frame_of_lt hlt⟩, fun hge => ?_⟩
  · rw [State.timerTick_acc, tickFires_eq_false_iff.mpr hlt, if_neg Bool.false_ne_true]
  · have hon := tickFires_iff.mpr hge
    refine ⟨?_, ?_, ?_, ?_, timerTick_frame s e⟩
    · rw [State.timerTick_acc, if_pos hon]
    · rw [State.timerTick_DT, if_pos hon, countDown_toNat]
    · rw [State.timerTick_ST, if_pos hon, countDown_toNat]
    · rw [State.timerTick_beep, hon, Bool.true_and]

/-- Settles O44: beside the host's list a faulted step writes only its answer. -/
theorem fatalErrorIsTerminal : Obligations.FatalErrorIsTerminal := by
  intro s s0 m e c hc hf
  obtain ⟨hf0, -⟩ := hc.fields
  refine ⟨s0.setResult (.err c), ?_, s0.setResult_result _, ?_⟩
  · rw [step_eq hc, State.transact, State.stepPort_of_fault (hf0.trans hf)]
  · exact OnlyChanges.trans (hc.frame.of_subset (by simp)) ((setResult_frame s0 _).of_subset (by simp))

end

section
/-! SUPPORT. The statement about a load outside its preconditions. -/

open Sys2Proof Sys2Proof.Machine

/-- Settles O47: the pending load is the call taken, and the load port refuses images that do not fit. -/
theorem loadOutsideItsPreconditionsIsRefused : Obligations.LoadOutsideItsPreconditionsIsRefused := by
  intro s cs program font o hcalls hfit
  calc step s
    _ = { s with calls := cs }.load program font o := step_eq (State.nextCall_of_cons hcalls)
    _ = .refused .loadNotAdmitted := State.load_of_not_imagesFit _ hfit

end
